-- ==== Sys2Proof/Word.lean ====
section
/-! DEFINITION. The widths of the words the engine handles: a request word is 16 bits (R70), a byte is 8 bits (R73),
an init code is 9 bits (R80). -/

namespace Sys2Proof

/-- A request word `req_word[15:0]` (R70). -/
abbrev Word := BitVec 16

/-- A command byte or a character byte (R73), and the level of the data bus. -/
abbrev Byte := BitVec 8

/-- The 9-bit code of an init entry, `kind` in bit 8 and `value` in bits 7:0 (R80). -/
abbrev InitCode := BitVec 9

end Sys2Proof
end

