-- ==== Sys2Proof/Config.lean ====
section
/-! DEFINITION. The build-time parameters of an engine instance (R5), as raw data. Which parameter sets define an
engine is WellFormed.lean's question (R6). The values a build gives them are in Machine/Rom.lean. No value of the spec
is open at run time, so there is no free value here. -/

namespace Sys2Proof

/-- The kind of an init entry (R80): 0 is `IBYTE`, 1 is `INIB`. -/
inductive InitKind where
  | ibyte
  | inib
deriving DecidableEq, Repr

/-- One entry `(kind, value, wait)` of `INIT_SEQ` (R80). `value` is the eight value bits of the entry's code;
an `INIB` entry uses the low four. `wait` is the length in cycles of the entry's execution wait. -/
structure InitEntry where
  kind  : InitKind
  value : Byte
  wait  : Nat
deriving DecidableEq, Repr

/-- The parameter set of R5. Durations are counts of `clk` cycles. `rowBase0` to `rowBase3` are `ROW_BASE[0..3]`.
`FS8`, `FS4`, `DC`, `EM`, `W_NIB1` and `W_NIB2` of R5 enter an engine only through `INIT_SEQ`: see `InitDefaults`. -/
structure Params where
  busWidth  : Nat
  tPwr      : Nat
  tAs       : Nat
  tEh       : Nat
  tDs       : Nat
  tH        : Nat
  tExecCmd  : Nat
  tExecData : Nat
  initSeq   : List InitEntry
  numRows   : Nat
  rowBase0  : Nat
  rowBase1  : Nat
  rowBase2  : Nat
  rowBase3  : Nat
  colMax    : Nat
  cntW      : Nat
deriving DecidableEq, Repr

/-- The parameters of R5 from which the default `INIT_SEQ` is built (R146, R147). -/
structure InitDefaults where
  fs8   : Byte
  fs4   : Byte
  dc    : Byte
  em    : Byte
  wNib1 : Nat
  wNib2 : Nat
deriving DecidableEq, Repr

/-- `INIT_LEN`, the number of entries of `INIT_SEQ` (R5). -/
abbrev Params.initLen (p : Params) : Nat := p.initSeq.length

end Sys2Proof
end

