-- ==== Sys2Proof/Syntax.lean ====
section
/-! DEFINITION. The instructions: the five requests of R71 and the two init entries of R80, one constructor for each
row of spec/opcode_table.json. `ILLEGAL` is not an instruction (R126); it is an outcome of decoding. -/

namespace Sys2Proof

/-- An instruction of the engine. A request takes its operands from the request word (R75). An init entry takes its
value from its code and its execution wait from the field that stands beside the code in `INIT_SEQ` (R80). -/
inductive Instr where
  /-- `NOP` (R123). -/
  | nop
  /-- `CMD byte` (R124). -/
  | cmd (byte : Byte)
  /-- `DATA byte` (R125). -/
  | data (byte : Byte)
  /-- `MOVE row, col` (R162): `row` is 0 to 7, `col` is 0 to 63 (R74). -/
  | move (row : BitVec 3) (col : BitVec 6)
  /-- `CLEAR` (R163). -/
  | clear
  /-- `IBYTE value` with its wait (R143). -/
  | ibyte (value : Byte) (wait : Nat)
  /-- `INIB value` with its wait (R144). -/
  | inib (value : BitVec 4) (wait : Nat)
deriving DecidableEq, Repr

end Sys2Proof
end

