-- ==== Sys2Proof/WellFormed.lean ====
section
/-! DEFINITION. Which parameter sets define an engine (R6), and which instructions an engine with given parameters
admits. -/

namespace Sys2Proof

/-- The named checks of R6, in its order. -/
inductive ParamCheck where
  | chkWidth
  | chkWaits
  | chkRows
  | chkBase
  | chkCol
  | chkFit
  | chkInit
deriving DecidableEq, Repr

/-- Every check of R6. -/
def ParamCheck.all : List ParamCheck :=
  [.chkWidth, .chkWaits, .chkRows, .chkBase, .chkCol, .chkFit, .chkInit]

/-- A wait of `t` cycles is legal: `1 ≤ t ≤ 2^CNT_W` (R6 `chk_waits`). -/
def Params.waitOk (p : Params) (t : Nat) : Bool :=
  decide (1 ≤ t ∧ t ≤ 2 ^ p.cntW)

/-- `ROW_BASE[r]` (R33). The table has four entries; the decoder reads it only below `NUM_ROWS ≤ 4`. -/
def Params.rowBaseAt (p : Params) : Nat → Nat
  | 0 => p.rowBase0
  | 1 => p.rowBase1
  | 2 => p.rowBase2
  | 3 => p.rowBase3
  | _ => 0

/-- An `INIT_SEQ` entry passes `chk_init` (R6): an `INIB` entry has a value of four bits and stands only on a 4-bit
bus. -/
def Params.entryOk (p : Params) (e : InitEntry) : Bool :=
  match e.kind with
  | .ibyte => true
  | .inib => decide (e.value.toNat ≤ 0x0F ∧ p.busWidth = 4)

/-- The parameter set passes the named check (R6). `CNT_W` is itself at least 1 (R5), which stands with the waits it
bounds. DEDUCED (log 9). -/
def Params.holds (p : Params) : ParamCheck → Bool
  | .chkWidth => decide (p.busWidth = 4 ∨ p.busWidth = 8)
  | .chkWaits =>
      decide (1 ≤ p.cntW)
        && [p.tPwr, p.tAs, p.tEh, p.tDs, p.tH, p.tExecCmd, p.tExecData].all p.waitOk
        && p.initSeq.all (fun e => p.waitOk e.wait)
  | .chkRows => decide (1 ≤ p.numRows ∧ p.numRows ≤ 4)
  | .chkBase => [0, 1, 2, 3].all (fun r => decide (p.rowBaseAt r ≤ 0x7F))
  | .chkCol => decide (p.colMax ≤ 63)
  | .chkFit => [0, 1, 2, 3].all (fun r => decide (r < p.numRows → p.rowBaseAt r + p.colMax ≤ 0x7F))
  | .chkInit => p.initSeq.all p.entryOk

/-- The checks of R6 that a parameter set fails. -/
def Params.failed (p : Params) : List ParamCheck :=
  ParamCheck.all.filter (fun c => !p.holds c)

/-- A parameter set is well formed when every check of R6 holds. -/
def Params.wf (p : Params) : Bool :=
  ParamCheck.all.all p.holds

/-- An instruction is well formed for a parameter set. Every operand value of a request can be written in the word, and
every word's operands are legal to offer (R73, R74). An init entry needs a legal wait, and `INIB` a 4-bit bus
(R80, R144). -/
def Instr.wf (p : Params) : Instr → Bool
  | .nop => true
  | .cmd _ => true
  | .data _ => true
  | .move _ _ => true
  | .clear => true
  | .ibyte _ w => p.waitOk w
  | .inib _ w => p.waitOk w && decide (p.busWidth = 4)

end Sys2Proof
end

