-- ==== Sys2Proof/Decode.lean ====
section
/-! DEFINITION. Decoding and encoding. A request word decodes by R76, an init code by R80; each decoder is total and
names why it rejects. The encoder writes the same layouts (R72 to R74, R78, R80). -/

namespace Sys2Proof

/-- Why a code is rejected. The first two make a request word `ILLEGAL` (R77); the engine answers both alike. The
third is an `INIB` code whose bits 7:4 are not zero (R80). -/
inductive DecodeError where
  | illegalOpcode
  | reservedBits
  | initReservedBits
deriving DecidableEq, Repr

/-- What a decoder answers: an instruction, or `ILLEGAL` with its reason (R76). -/
inductive Decoded where
  | instr (i : Instr)
  | illegal (e : DecodeError)
deriving DecidableEq, Repr

/-- An encoded instruction as the engine meets it: a word on the request port (R70), or an init code with its wait
beside it (R80). -/
inductive Code where
  | request (w : Word)
  | init (code : InitCode) (wait : Nat)
deriving DecidableEq, Repr

/-! ### Fields -/

/-- `op = req_word[15:12]` (R71). -/
def fieldOp (w : Word) : BitVec 4 := w.extractLsb' 12 4

/-- `byte = req_word[7:0]` (R73). -/
def fieldByte (w : Word) : Byte := w.extractLsb' 0 8

/-- `row = req_word[10:8]` (R74). -/
def fieldRow (w : Word) : BitVec 3 := w.extractLsb' 8 3

/-- `col = req_word[5:0]` (R74). -/
def fieldCol (w : Word) : BitVec 6 := w.extractLsb' 0 6

/-- The reserved bits 11:0 of format N are 0 (R72). -/
def reservedN (w : Word) : Bool := decide (w.extractLsb' 0 12 = 0)

/-- The reserved bits 11:8 of format B are 0 (R73). -/
def reservedB (w : Word) : Bool := decide (w.extractLsb' 8 4 = 0)

/-- The reserved bits 11 and 7:6 of format M are 0 (R74). -/
def reservedM (w : Word) : Bool := decide (w.extractLsb' 11 1 = 0) && decide (w.extractLsb' 6 2 = 0)

/-- An instruction if its format's reserved bits are 0, else `ILLEGAL` (R77). -/
def orReserved (ok : Bool) (i : Instr) : Decoded :=
  if ok then .instr i else .illegal .reservedBits

/-! ### Decoders -/

/-- `decode(w)` of R76: total on all 65536 words, by the word alone (R79). -/
def decodeRequest (w : Word) : Decoded :=
  if fieldOp w = 0x0 then orReserved (reservedN w) .nop
  else if fieldOp w = 0x1 then orReserved (reservedB w) (.cmd (fieldByte w))
  else if fieldOp w = 0x2 then orReserved (reservedB w) (.data (fieldByte w))
  else if fieldOp w = 0x3 then orReserved (reservedM w) (.move (fieldRow w) (fieldCol w))
  else if fieldOp w = 0x4 then orReserved (reservedN w) .clear
  else .illegal .illegalOpcode

/-- An init code and its wait (R80): bit 8 is the kind, bits 7:0 are the value, and an `INIB` code has bits 7:4 zero. -/
def decodeInit (code : InitCode) (wait : Nat) : Decoded :=
  if code.extractLsb' 8 1 = 0 then .instr (.ibyte (code.extractLsb' 0 8) wait)
  else if code.extractLsb' 4 4 = 0 then .instr (.inib (code.extractLsb' 0 4) wait)
  else .illegal .initReservedBits

/-- The decoder of both kinds of code. -/
def decode : Code → Decoded
  | .request w => decodeRequest w
  | .init code wait => decodeInit code wait

/-- The instruction of an `INIT_SEQ` entry, as `InitNext` reads it (R142): an `INIB` entry sends `value[3:0]`. -/
def decodeEntry (e : InitEntry) : Instr :=
  match e.kind with
  | .ibyte => .ibyte e.value e.wait
  | .inib => .inib (e.value.extractLsb' 0 4) e.wait

/-! ### Encoders -/

/-- Format N (R72). -/
def encodeN (op : BitVec 4) : Word := op ++ 0#12

/-- Format B (R73). -/
def encodeB (op : BitVec 4) (byte : Byte) : Word := op ++ 0#4 ++ byte

/-- Format M (R74). -/
def encodeM (op : BitVec 4) (row : BitVec 3) (col : BitVec 6) : Word := op ++ 0#1 ++ row ++ 0#2 ++ col

/-- The code of an instruction (R78, R80). -/
def encode : Instr → Code
  | .nop => .request (encodeN 0x0)
  | .cmd b => .request (encodeB 0x1 b)
  | .data b => .request (encodeB 0x2 b)
  | .move r c => .request (encodeM 0x3 r c)
  | .clear => .request (encodeN 0x4)
  | .ibyte v wait => .init (0#1 ++ v) wait
  | .inib v wait => .init (1#1 ++ 0#4 ++ v) wait

/-- The 9-bit code of an `INIT_SEQ` entry, `{kind, value[7:0]}` (R80). -/
def InitEntry.code (e : InitEntry) : InitCode :=
  match e.kind with
  | .ibyte => 0#1 ++ e.value
  | .inib => 1#1 ++ e.value

/-- The `INIT_SEQ` entry that an init code and its wait write (R80). -/
def entryOfCode (code : InitCode) (wait : Nat) : InitEntry :=
  { kind := if code.extractLsb' 8 1 = 0 then .ibyte else .inib
    value := code.extractLsb' 0 8
    wait := wait }

/-! ### Words of the opcode table -/

/-- The wait that stands beside an init code read from a table word, to which the table gives no bits: 1, the shortest
legal wait. DESIGN CHOICE (log 6). -/
def tableWait : Nat := 1

/-- Which port a word of the opcode table belongs to. The table holds 16-bit request words and 9-bit init codes; a row
of fewer than 16 bits is an init code. In 16 bits (9 rounded up to whole bytes) a word that no request has and that an
init code has is the init code. DESIGN CHOICE (log 6): this sorts table words only; the request port decodes by
`decodeRequest` alone. -/
def codeOfTableWord (nbits w : Nat) : Code :=
  let request := BitVec.ofNat 16 w
  let init := BitVec.ofNat 9 w
  if nbits < 16 then .init init tableWait
  else
    match decodeRequest request with
    | .instr _ => .request request
    | .illegal _ =>
      if w < 2 ^ 9 then
        match decodeInit init tableWait with
        | .instr _ => .init init tableWait
        | .illegal _ => .request request
      else .request request

/-- The instruction the decoder reads from a word numbered as the opcode table numbers it; none where it rejects. -/
def decodeTableWord (nbits w : Nat) : Option Instr :=
  match decode (codeOfTableWord nbits w) with
  | .instr i => some i
  | .illegal _ => none

end Sys2Proof
end

