-- ==== Sys2Proof/Machine/Rom.lean ====
section
/-! DEFINITION. The values of the parameters: the default init sequences (R146, R147), the row table and ranges of this
hardware (R5), and the parameter set of the state after reset. -/

namespace Sys2Proof.Machine

/-- `CLEAR_BYTE = 0x01`, the clear-display command (R5; general knowledge G1). -/
def clearByte : Byte := 0x01

/-- `SET_DDRAM = 0x80`, the set-cursor opcode bit (R5; general knowledge G2). -/
def setDdram : Byte := 0x80

/-- The default bytes of R5. `W_NIB1` and `W_NIB2` are OPEN in R5; 2 cycles is a DESIGN CHOICE (log 2). -/
def initDefaults : InitDefaults :=
  { fs8 := 0x38, fs4 := 0x28, dc := 0x0F, em := 0x06, wNib1 := 2, wNib2 := 2 }

/-- The default `INIT_SEQ` of an 8-bit bus (R146). -/
def initSeq8 (d : InitDefaults) (tExecCmd : Nat) : List InitEntry :=
  [ ⟨.ibyte, d.fs8, tExecCmd⟩, ⟨.ibyte, d.dc, tExecCmd⟩, ⟨.ibyte, clearByte, tExecCmd⟩, ⟨.ibyte, d.em, tExecCmd⟩ ]

/-- The default `INIT_SEQ` of a 4-bit bus (R147). -/
def initSeq4 (d : InitDefaults) (tExecCmd : Nat) : List InitEntry :=
  [ ⟨.inib, 0x3, d.wNib1⟩, ⟨.inib, 0x3, d.wNib2⟩, ⟨.inib, 0x3, tExecCmd⟩, ⟨.inib, 0x2, tExecCmd⟩,
    ⟨.ibyte, d.fs4, tExecCmd⟩, ⟨.ibyte, d.dc, tExecCmd⟩, ⟨.ibyte, clearByte, tExecCmd⟩, ⟨.ibyte, d.em, tExecCmd⟩ ]

/-- The default `INIT_SEQ` for a bus width (R5). -/
def defaultInitSeq (d : InitDefaults) (busWidth tExecCmd : Nat) : List InitEntry :=
  if busWidth = 4 then initSeq4 d tExecCmd else initSeq8 d tExecCmd

/-- An engine with this hardware's row table and ranges (R5) on a bus of the given width. The waits and the bus width
are OPEN in R5; these are the small test values of the spec's own programs (section L3), a DESIGN CHOICE (log 2). -/
def engineParams (busWidth : Nat) : Params :=
  { busWidth := busWidth
    tPwr := 2, tAs := 1, tEh := 1, tDs := 1, tH := 1, tExecCmd := 2, tExecData := 2
    initSeq := defaultInitSeq initDefaults busWidth 2
    numRows := 4, rowBase0 := 0x00, rowBase1 := 0x40, rowBase2 := 0x10, rowBase3 := 0x50
    colMax := 39, cntW := 1 }

end Sys2Proof.Machine
end

