-- ==== Sys2Proof/Machine/State.lean ====
section
/-! DEFINITION. The state of the engine (R23), beside it the parameters the instance was built with (R5) and what the
host will do at the coming clock edges (R11, R21). Plain data. -/

namespace Sys2Proof.Machine

/-- The sequencer position (R25). -/
inductive Phase where
  | CFG
  | PWR
  | IDLE
  | AS
  | EH
  | DS
  | HOLD
  | EXEC
deriving DecidableEq, Repr

/-- The status of a completed request (R28). -/
inductive Status where
  | ok
  | errIllegal
  | errRow
  | errCol
deriving DecidableEq, Repr

/-- What the host does at the request port and the reset pin. -/
inductive HostAct where
  /-- For one clock edge the inputs have these levels (R21). -/
  | drive (rst reqValid : Bool) (reqWord : Word)
  /-- The host keeps this request offered until the edge that accepts it (R121), with `rst = 0`. -/
  | offer (reqWord : Word)
deriving DecidableEq, Repr

/-- The machine: the sixteen registers of R23, the build's parameters, and the host's coming acts. -/
structure State where
  /-- The parameters of the instance (R5), fixed when it is built: no step writes them. The model's own field
  (log 3). -/
  params      : Params
  /-- `phase`, 3 bits. -/
  phase       : Phase
  /-- `cnt`, `CNT_W` bits: cycles left in the current phase, minus one (R26; log 5). -/
  cnt         : Nat
  /-- `oe_q`. -/
  oeQ         : Bool
  /-- `rs_q`. -/
  rsQ         : Bool
  /-- `rw_q`. -/
  rwQ         : Bool
  /-- `e_q`. -/
  eQ          : Bool
  /-- `db_q`, `BUS_WIDTH` bits; on a 4-bit bus the nibble is in bits 3:0 and bits 7:4 are 0 (log 4). -/
  dbQ         : Byte
  /-- `xb`, 8 bits. -/
  xb          : Byte
  /-- `two`. -/
  two         : Bool
  /-- `nib`. -/
  nib         : Bool
  /-- `xwait`, `CNT_W + 1` bits (log 5). -/
  xwait       : Nat
  /-- `in_init`. -/
  inInit      : Bool
  /-- `init_idx`, `ceil(log2(INIT_LEN + 1))` bits, at least 1 (R27; log 5). -/
  initIdx     : Nat
  /-- `init_done_q`. -/
  initDoneQ   : Bool
  /-- `resp_valid_q` (R29). -/
  respValidQ  : Bool
  /-- `resp_status_q`, 2 bits (R28). -/
  respStatusQ : Status
  /-- What the host does at the coming edges, the next one first; past the list it offers nothing and does not reset
  (log 1). The model's own field: the inputs of R21. -/
  host        : List HostAct
deriving DecidableEq, Repr

/-- The engine has no fault: a rejected request is answered with a status and the machine goes on (R200, R201), there
is no trap (R207), and nothing the spec describes stops it. So no constructor. -/
inductive Fault where
deriving DecidableEq, Repr

/-- Why a step answers with no next state. -/
inductive Refusal where
  /-- Raised by `exec` for an instruction without a meaning; none is left. Safe: nothing is claimed of it. -/
  | notModelled (mnemonic : String)
  /-- Raised by `step` alone, for a parameter set that fails the listed checks: it is refused and "the model has no
  machine for it" (R6, R206). Safe: nothing is claimed of such a build. -/
  | illFormedParams (failed : List ParamCheck)
deriving DecidableEq, Repr

/-- The machine right after a reset edge: every register at its value of R36. The parameters R5 leaves OPEN have the
model's values (log 2: a 4-bit bus), and the host is silent (log 1). -/
def State.reset : State :=
  { params := engineParams 4
    phase := .CFG
    cnt := 0
    oeQ := false
    rsQ := false
    rwQ := false
    eQ := false
    dbQ := 0
    xb := 0
    two := false
    nib := false
    xwait := 0
    inInit := false
    initIdx := 0
    initDoneQ := false
    respValidQ := false
    respStatusQ := .ok
    host := [] }

end Sys2Proof.Machine
end

