-- ==== Sys2Proof/Machine/Flags.lean ====
section
/-! DEFINITION. The status outputs and flags (R25, R28 to R32): their codes, and the one way a request is answered. -/

namespace Sys2Proof.Machine

/-- The 3-bit code of a phase (R25). -/
def Phase.code : Phase → BitVec 3
  | .CFG => 0
  | .PWR => 1
  | .IDLE => 2
  | .AS => 3
  | .EH => 4
  | .DS => 5
  | .HOLD => 6
  | .EXEC => 7

/-- The phases of a transfer (R25): `AS`, `EH`, `DS`, `HOLD` and `EXEC`. -/
def Phase.inTransfer : Phase → Bool
  | .AS | .EH | .DS | .HOLD | .EXEC => true
  | .CFG | .PWR | .IDLE => false

/-- The 2-bit code of a status (R28, R200). -/
def Status.code : Status → BitVec 2
  | .ok => 0b00
  | .errIllegal => 0b01
  | .errRow => 0b10
  | .errCol => 0b11

/-- `req_ready = 1` exactly when `phase = IDLE` (R31). -/
def reqReady (s : State) : Bool := decide (s.phase = .IDLE)

/-- The flags of a response: `resp_valid_q <- 1; resp_status_q <- st` (R122 `Respond`). -/
def respond (st : Status) (s : State) : State :=
  { s with respValidQ := true, respStatusQ := st }

/-- Every edge without reset that completes no request writes `resp_valid_q <- 0` (R29). -/
def clearResp (s : State) : State :=
  { s with respValidQ := false }

/-- The observation vector of R32: bit 0 `req_ready`, bit 1 `resp_valid`, bits 3:2 `resp_status`, bit 4 `init_done`. -/
def statusVector (s : State) : BitVec 5 :=
  BitVec.ofBool s.initDoneQ ++ s.respStatusQ.code ++ BitVec.ofBool s.respValidQ ++ BitVec.ofBool (reqReady s)

end Sys2Proof.Machine
end

