-- ==== Sys2Proof/Machine/Operands.lean ====
section
/-! DEFINITION. The operand forms: the value a pulse places on the bus (R101) and the DDRAM address decoder
(R160, R161). -/

namespace Sys2Proof.Machine

/-- `BUS_WIDTH = 4` as the Boolean of R122. -/
def fourBit (p : Params) : Bool := decide (p.busWidth = 4)

/-- `v[7:4]`, on the low lines of the bus (R54, R55). -/
def highNibble (v : Byte) : Byte := (v.extractLsb' 4 4).setWidth 8

/-- `v[3:0]` (R54, R55). -/
def lowNibble (v : Byte) : Byte := (v.extractLsb' 0 4).setWidth 8

/-- `pulse_value()` (R101), zero-extended to eight lines on a 4-bit bus. -/
def pulseValue (busWidth : Nat) (xb : Byte) (two nib : Bool) : Byte :=
  if busWidth = 8 then xb
  else if two = false then lowNibble xb
  else if nib = false then highNibble xb
  else lowNibble xb

/-- `ddram_addr(row, col) = (ROW_BASE[row] + col)[6:0]` (R160): the sum is exact and its low seven bits are kept. The
engine applies it only to a row and column in range (R164). -/
def ddramAddr (p : Params) (row : BitVec 3) (col : BitVec 6) : BitVec 7 :=
  BitVec.ofNat 7 (p.rowBaseAt row.toNat + col.toNat)

/-- `set_addr_cmd(a) = SET_DDRAM | a` (R161). -/
def setAddrCmd (a : BitVec 7) : Byte := setDdram ||| a.setWidth 8

/-- The row check of R162: `row < NUM_ROWS`. -/
def rowInRange (p : Params) (row : BitVec 3) : Bool := decide (row.toNat < p.numRows)

/-- The column check of R162: `col ≤ COL_MAX`. -/
def colInRange (p : Params) (col : BitVec 6) : Bool := decide (col.toNat ≤ p.colMax)

end Sys2Proof.Machine
end

