-- ==== Sys2Proof/Machine/Ops.lean ====
section
/-! DEFINITION. The named operations over the registers and the host's inputs. -/

namespace Sys2Proof.Machine

/-! ### The inputs of an edge -/

/-- The levels an edge samples (R21). -/
structure Inputs where
  rst      : Bool
  reqValid : Bool
  reqWord  : Word
deriving DecidableEq, Repr

/-- The levels of a host that neither resets nor offers. -/
def Inputs.quiet : Inputs := ⟨false, false, 0⟩

/-- The inputs that the next edge samples: the host's next act (R21), and a silent host past the list (log 1). -/
def sampled (s : State) : Inputs :=
  match s.host with
  | [] => .quiet
  | .drive rst valid word :: _ => ⟨rst, valid, word⟩
  | .offer word :: _ => ⟨false, true, word⟩

/-- The host's acts after an edge at a state: a driven edge is over, and an offer is over when the edge accepted it
(R121: an edge at which `req_ready` was 1). -/
def advanceHost (s : State) : State :=
  match s.host with
  | [] => s
  | .drive _ _ _ :: rest => { s with host := rest }
  | .offer _ :: rest => if reqReady s then { s with host := rest } else s

/-! ### Reset -/

/-- A reset edge (R230): every register takes its value of R36. The parameters and the host are no registers. -/
def resetEdge (s : State) : State :=
  { State.reset with params := s.params, host := s.host }

/-! ### Phases and transfers -/

/-- An edge of a timed phase that is not its last: `cnt <- cnt - 1` (R26). -/
def countDown (s : State) : State :=
  { s with cnt := s.cnt - 1 }

/-- Enter a timed phase of length `t`: `phase <- ph; cnt <- t - 1` (R26). Every wait is at least 1 on a well-formed engine
(log 5). -/
def enterPhase (ph : Phase) (t : Nat) (s : State) : State :=
  { s with phase := ph, cnt := t - 1 }

/-- `StartTransfer(rs, b, tw, w)` (R100). It writes no status flag; its edge completes no request, so
`resp_valid_q <- 0` (R29). -/
def startTransfer (rs : Bool) (b : Byte) (tw : Bool) (w : Nat) (s : State) : State :=
  clearResp (enterPhase .AS s.params.tAs
    { s with rsQ := rs, rwQ := false, xb := b, two := tw, nib := false, xwait := w })

/-- Send a whole byte: two pulses exactly on a 4-bit bus (R100, R122). -/
def sendByte (rs : Bool) (b : Byte) (w : Nat) (s : State) : State :=
  startTransfer rs b (fourBit s.params) w s

/-! ### The exceptional outcome

The engine has no trap (R207) and so no return from one (R208). Its one exceptional outcome is a rejection. -/

/-- `Reject(c)` (R201): the response, and nothing else. -/
def reject (c : Status) (s : State) : State := respond c s

end Sys2Proof.Machine
end

