-- ==== Sys2Proof/Machine/Cursor.lean ====
section
/-! DEFINITION. The requests MOVE and CLEAR (43_cursor.md), each at its acceptance edge. -/

namespace Sys2Proof.Machine

/-- `MOVE row, col` (R162): the row is checked before the column (R203), and a pair in range sends its
set-DDRAM-address command. -/
def execMove (row : BitVec 3) (col : BitVec 6) (s : State) : Host.Outcome State Fault Refusal :=
  if rowInRange s.params row = false then .next (reject .errRow s)
  else if colInRange s.params col = false then .next (reject .errCol s)
  else .next (sendByte false (setAddrCmd (ddramAddr s.params row col)) s.params.tExecCmd s)

/-- `CLEAR` (R163): the clear-display byte, as a command. -/
def execClear (s : State) : Host.Outcome State Fault Refusal :=
  .next (sendByte false clearByte s.params.tExecCmd s)

end Sys2Proof.Machine
end

