-- ==== Sys2Proof/Machine/InitEntries.lean ====
section
/-! DEFINITION. The init entries IBYTE and INIB (42_init.md), each at the edge that starts it. Its position in
`INIT_SEQ` is the sequencer's (Sequencer.lean). -/

namespace Sys2Proof.Machine

/-- `IBYTE value` (R143): a command byte with the entry's own wait. -/
def execIbyte (value : Byte) (wait : Nat) (s : State) : Host.Outcome State Fault Refusal :=
  .next (sendByte false value wait s)

/-- `INIB value` (R144): one pulse of a single command nibble, with the entry's own wait. That it stands only on
a 4-bit bus is a check of the build (R6 `chk_init`; log 8). -/
def execInib (value : BitVec 4) (wait : Nat) (s : State) : Host.Outcome State Fault Refusal :=
  .next (startTransfer false (value.setWidth 8) false wait s)

end Sys2Proof.Machine
end

