-- ==== Sys2Proof/Machine/Requests.lean ====
section
/-! DEFINITION. The requests NOP, CMD and DATA (41_command_data.md), each at its acceptance edge. The edges of a
transfer that follow are in Transfer.lean and Sequencer.lean. -/

namespace Sys2Proof.Machine

/-- `NOP` (R123): an immediate `OK`. -/
def execNop (s : State) : Host.Outcome State Fault Refusal :=
  .next (respond .ok s)

/-- `CMD byte` (R124): the byte, whatever it is, with RS low and the wait `T_EXEC_CMD`. -/
def execCmd (byte : Byte) (s : State) : Host.Outcome State Fault Refusal :=
  .next (sendByte false byte s.params.tExecCmd s)

/-- `DATA byte` (R125): the byte, whatever it is, with RS high and the wait `T_EXEC_DATA`. -/
def execData (byte : Byte) (s : State) : Host.Outcome State Fault Refusal :=
  .next (sendByte true byte s.params.tExecData s)

end Sys2Proof.Machine
end

