-- ==== Sys2Proof/Machine/Dispatch.lean ====
section
/-! DEFINITION. One arm for each instruction (R122, R142). -/

namespace Sys2Proof.Machine

def exec (i : Instr) (s : State) : Host.Outcome State Fault Refusal :=
  match i with
  | .nop => Sys2Proof.Machine.execNop s
  | .cmd byte => Sys2Proof.Machine.execCmd byte s
  | .data byte => Sys2Proof.Machine.execData byte s
  | .move row col => Sys2Proof.Machine.execMove row col s
  | .clear => Sys2Proof.Machine.execClear s
  | .ibyte value wait => Sys2Proof.Machine.execIbyte value wait s
  | .inib value wait => Sys2Proof.Machine.execInib value wait s

end Sys2Proof.Machine
end

