-- ==== Sys2Proof/Machine/Transfer.lean ====
section
/-! DEFINITION. The exit actions of the phases of a transfer (40_transfer.md), but for `EXEC`, which may go on with
the next init entry (Sequencer.lean). -/

namespace Sys2Proof.Machine

/-- `AS` exit (R102): E rises. -/
def exitAs (s : State) : State :=
  enterPhase .EH s.params.tEh { s with eQ := true }

/-- `EH` exit (R103): the data is placed on the bus. -/
def exitEh (s : State) : State :=
  enterPhase .DS s.params.tDs { s with dbQ := pulseValue s.params.busWidth s.xb s.two s.nib }

/-- `DS` exit (R104): E falls, which is the latch edge. -/
def exitDs (s : State) : State :=
  enterPhase .HOLD s.params.tH { s with eQ := false }

/-- `HOLD` exit (R105): the second pulse of a byte on a 4-bit bus, or the execution wait. -/
def exitHold (s : State) : State :=
  if s.two = true ∧ s.nib = false then
    enterPhase .EH s.params.tEh { s with nib := true, eQ := true }
  else
    enterPhase .EXEC s.xwait s

end Sys2Proof.Machine
end

