-- ==== Sys2Proof/Machine/Sequencer.lean ====
section
/-! DEFINITION. The sequencer: configuration and power-on (R140, R141), the init sequence (R142), the end of a
transfer (R106), the acceptance of a request (R120, R122), and one clock edge. -/

namespace Sys2Proof.Machine

/-- `CFG` exit (R140): the pins leave Z and the power-on wait begins. -/
def exitCfg (s : State) : State :=
  enterPhase .PWR s.params.tPwr { s with oeQ := true }

/-- The end of the init sequence (R142, R145). -/
def endInit (s : State) : State :=
  { s with initIdx := s.params.initLen, inInit := false, initDoneQ := true, phase := .IDLE }

/-- `InitNext(i)` (R142): start entry i, or end the sequence. -/
def initNext (i : Nat) (s : State) : Host.Outcome State Fault Refusal :=
  match s.params.initSeq[i]? with
  | some e => exec (decodeEntry e) { s with initIdx := i, inInit := true }
  | none => .next (endInit s)

/-- `EXEC` exit (R106): the next init entry, or the response `OK` and `IDLE`. -/
def exitExec (s : State) : Host.Outcome State Fault Refusal :=
  if s.inInit then initNext (s.initIdx + 1) s
  else .next (respond .ok { s with phase := .IDLE })

/-- `Dispatch(w)` (R122): run the decoded request, or reject an `ILLEGAL` word (R126). -/
def dispatch (w : Word) (s : State) : Host.Outcome State Fault Refusal :=
  match decodeRequest w with
  | .instr i => exec i s
  | .illegal _ => .next (reject .errIllegal s)

/-- An edge of `IDLE` (R120): take the offered request, or hold. -/
def idleEdge (valid : Bool) (w : Word) (s : State) : Host.Outcome State Fault Refusal :=
  if valid then dispatch w s else .next s

/-- The exit action of a timed phase, at `cnt = 0` (R26). `CFG` lasts one cycle, whatever `cnt` is (R140); `IDLE` has
no exit action of its own. -/
def exitPhase (s : State) : Host.Outcome State Fault Refusal :=
  match s.phase with
  | .CFG => .next (exitCfg s)
  | .PWR => initNext 0 s
  | .IDLE => .next s
  | .AS => .next (exitAs s)
  | .EH => .next (exitEh s)
  | .DS => .next (exitDs s)
  | .HOLD => .next (exitHold s)
  | .EXEC => exitExec s

/-- A timed phase counts down, then exits (R26). -/
def timedEdge (s : State) : Host.Outcome State Fault Refusal :=
  if s.cnt = 0 then exitPhase s else .next (countDown s)

/-- A clock edge without reset. A register that no rule of the edge names keeps its value (R9), but for `resp_valid_q`,
which returns to 0 (R29). -/
def runEdge (inp : Inputs) (s : State) : Host.Outcome State Fault Refusal :=
  match s.phase with
  | .CFG => exitPhase (clearResp s)
  | .IDLE => idleEdge inp.reqValid inp.reqWord (clearResp s)
  | .PWR | .AS | .EH | .DS | .HOLD | .EXEC => timedEdge (clearResp s)

/-- One clock edge of a well-formed engine (R8, R11): sample the inputs, let the host go on, then reset (R230) or run
the phase. -/
def clockEdge (s : State) : Host.Outcome State Fault Refusal :=
  if (sampled s).rst then .next (resetEdge (advanceHost s))
  else runEdge (sampled s) (advanceHost s)

/-! ### Placing an instruction where the next edge takes it (log 7) -/

/-- An initialised, idle engine whose host offers the word at the next edge. -/
def placeRequest (w : Word) (s : State) : State :=
  { s with
    phase := .IDLE
    oeQ := true
    eQ := false
    inInit := false
    initIdx := s.params.initLen
    initDoneQ := true
    host := .offer w :: s.host }

/-- An engine at the last cycle of `PWR`, whose `INIT_SEQ` begins with the entry; the host is silent at the next
edge. -/
def placeEntry (e : InitEntry) (s : State) : State :=
  { s with
    params := { s.params with initSeq := e :: s.params.initSeq.drop 1 }
    phase := .PWR
    cnt := 0
    oeQ := true
    eQ := false
    inInit := false
    initIdx := 0
    initDoneQ := false
    host := .drive false false 0 :: s.host }

/-- Place a code of either kind. -/
def placeCode (c : Code) (s : State) : State :=
  match c with
  | .request w => placeRequest w s
  | .init code wait => placeEntry (entryOfCode code wait) s

end Sys2Proof.Machine
end

