-- ==== Sys2Proof/Machine/Step.lean ====
section
/-! DEFINITION. One step is one clock edge (R11). -/

namespace Sys2Proof.Machine

/-- One clock edge. A parameter set that fails a check of R6 defines no engine, so its step is refused. -/
def step (s : State) : Host.Outcome State Fault Refusal :=
  if s.params.wf then clockEdge s else .refused (.illFormedParams s.params.failed)

/-- The state with an instruction of the opcode table where the next step takes it (log 7): a request offered to an
idle engine, or the entry the init sequencer starts next. -/
def State.withFetchWord (s : State) (nbits w : Nat) : State :=
  placeCode (codeOfTableWord nbits w) s

end Sys2Proof.Machine
end

