-- ==== Sys2Proof/Machine/TextHost.lean ====
section
/-! DEFINITION. The host text layer (44_text_host.md): the pseudo-instructions and the request words they expand to.
It is host software (R4); the engine sees only the words. -/

namespace Sys2Proof.Machine

/-- A host pseudo-instruction (R82). Texts are byte sequences; `int` has a 32-bit two's complement value (R183). -/
inductive Pseudo where
  | string (text : List Byte)
  | strat (row col : Nat) (text : List Byte)
  | int (v : BitVec 32)
deriving DecidableEq, Repr

/-- `data t[i]` as its word, `0x2000 | t[i]` (R81). -/
def dataWord (b : Byte) : Word := encodeB 0x2 b

/-- `move row, col` as its word (R81), for a row and column that fit their fields. -/
def moveWord (row col : Nat) : Word := encodeM 0x3 (BitVec.ofNat 3 row) (BitVec.ofNat 6 col)

/-- The bytes of a text before its first terminator 0x00 (R181). -/
def beforeTerminator (text : List Byte) : List Byte := text.takeWhile (fun b => decide (b ≠ 0x00))

/-- `string(t)` (R181): one DATA for each byte before the first terminator. -/
def stringWords (text : List Byte) : List Word := (beforeTerminator text).map dataWord

/-- The decimal digits of a number in ASCII, before the bytes in `acc` (the loop of R183). `fuel` bounds the number of
digits. -/
def decimalDigits : Nat → Nat → List Byte → List Byte
  | 0, _, acc => acc
  | fuel + 1, m, acc =>
    if m = 0 then acc else decimalDigits fuel (m / 10) (BitVec.ofNat 8 (0x30 + m % 10) :: acc)

/-- `int_text(v)` (R183). The magnitude is exact and at most 2^31, which has ten digits. -/
def intText (v : BitVec 32) : List Byte :=
  if v.toInt = 0 then [0x30]
  else
    let digits := decimalDigits 10 v.toInt.natAbs []
    if v.toInt < 0 then 0x2D :: digits else digits

/-- The expansion of a pseudo-instruction (R181 to R183); none where the assembler refuses it (R182). -/
def Pseudo.expand (p : Params) : Pseudo → Option (List Word)
  | .string text => some (stringWords text)
  | .strat row col text =>
    if row < p.numRows ∧ col ≤ p.colMax then some (moveWord row col :: stringWords text) else none
  | .int v => some (stringWords (intText v))

/-- The host offers the words of an expansion one at a time, in order (R180). -/
def offers (words : List Word) : List HostAct := words.map HostAct.offer

end Sys2Proof.Machine
end

