-- ==== Sys2Proof/Machine/Assembler.lean ====
section
/-! DEFINITION. The assembler of requests and pseudo-instructions (R81, R82): one line of text to its request words. It
is host software; it refuses a value that does not fit its field, which is not the engine's rejection by value. What R81 leaves
open of the lines' form is a DESIGN CHOICE (log 10). -/

namespace Sys2Proof.Machine

/-- A line of source, read (R81, R82). -/
inductive AsmLine where
  | blank
  | nop
  | cmd (imm : Nat)
  | data (imm : Nat)
  | move (row col : Nat)
  | clear
  | word (imm : Nat)
  | string (text : List Byte)
  | strat (row col : Nat) (text : List Byte)
  | int (v : Int)
deriving DecidableEq, Repr

/-- The words of a line, or none where the assembler refuses it: an operand that does not fit its field (R81), an
`int` outside 32 bits (R183), a `strat` outside the accepted ranges (R182). -/
def assembleLine (p : Params) : AsmLine → Option (List Word)
  | .blank => some []
  | .nop => some [encodeN 0x0]
  | .cmd imm => if imm ≤ 255 then some [encodeB 0x1 (BitVec.ofNat 8 imm)] else none
  | .data imm => if imm ≤ 255 then some [dataWord (BitVec.ofNat 8 imm)] else none
  | .move row col => if row ≤ 7 ∧ col ≤ 63 then some [moveWord row col] else none
  | .clear => some [encodeN 0x4]
  | .word imm => if imm ≤ 0xFFFF then some [BitVec.ofNat 16 imm] else none
  | .string text => Pseudo.expand p (.string text)
  | .strat row col text => Pseudo.expand p (.strat row col text)
  | .int v => if -2147483648 ≤ v ∧ v ≤ 2147483647 then Pseudo.expand p (.int (BitVec.ofInt 32 v)) else none

/-! ### Reading a line -/

/-- A token: a run of plain characters, a comma, a character literal or a text. -/
inductive AsmTok where
  | run (cs : List Char)
  | comma
  | chr (code : Nat)
  | text (bytes : List Byte)
deriving DecidableEq, Repr

/-- The token of the characters read so far (kept in reverse), before the tokens that follow. -/
def emitRun (acc : List Char) (rest : List AsmTok) : List AsmTok :=
  match acc with
  | [] => rest
  | _ :: _ => .run acc.reverse :: rest

/-- What the reader is inside of. -/
inductive LexMode where
  /-- Between or inside plain tokens: the characters of the token so far, in reverse. -/
  | plain (acc : List Char)
  /-- After the opening quote of a character literal. -/
  | charOpen
  /-- After the character of a literal: only the closing quote may follow. -/
  | charClose (code : Nat)
  /-- Inside a text: the codes of its characters so far, in reverse. -/
  | text (acc : List Byte)
deriving DecidableEq, Repr

/-- A character that a literal `'<c>'` may hold: printable ASCII but for the quote and the backslash (R81). -/
def charLiteralOk (c : Nat) : Bool := decide (0x20 ≤ c ∧ c ≤ 0x7E ∧ c ≠ 0x27 ∧ c ≠ 0x5C)

/-- The bytes of a text, from the codes of its characters (R181): `\0` is 0x00, and every other character, a backslash
included, stands for its own code. -/
def textBytes : List Byte → List Byte
  | [] => []
  | [b] => [b]
  | b :: c :: cs => if b = 0x5C ∧ c = 0x30 then 0x00 :: textBytes cs else b :: textBytes (c :: cs)

/-- Split a line into tokens; none where it is no line of R81 or R82. A semicolon outside a literal starts a
comment. -/
def lexLine : LexMode → List Char → Option (List AsmTok)
  | .plain acc, [] => some (emitRun acc [])
  | .charOpen, [] => none
  | .charClose _, [] => none
  | .text _, [] => none
  | .plain acc, c :: cs =>
    if c.toNat = 0x3B then some (emitRun acc [])
    else if c.toNat = 0x20 ∨ c.toNat = 0x09 then (lexLine (.plain []) cs).map (emitRun acc)
    else if c.toNat = 0x2C then (lexLine (.plain []) cs).map (fun ts => emitRun acc (.comma :: ts))
    else if c.toNat = 0x27 then if acc = [] then lexLine .charOpen cs else none
    else if c.toNat = 0x22 then if acc = [] then lexLine (.text []) cs else none
    else lexLine (.plain (c :: acc)) cs
  | .charOpen, c :: cs => if charLiteralOk c.toNat then lexLine (.charClose c.toNat) cs else none
  | .charClose code, c :: cs => if c.toNat = 0x27 then (lexLine (.plain []) cs).map (.chr code :: ·) else none
  | .text acc, c :: cs =>
    if c.toNat = 0x22 then (lexLine (.plain []) cs).map (.text (textBytes acc.reverse) :: ·)
    else if c.toNat ≤ 0x7F then lexLine (.text (BitVec.ofNat 8 c.toNat :: acc)) cs
    else none

/-- The value of a digit in a base of at most 16. -/
def digitValue (base : Nat) (c : Char) : Option Nat :=
  let n := c.toNat
  let d := if 0x30 ≤ n ∧ n ≤ 0x39 then n - 0x30
    else if 0x41 ≤ n ∧ n ≤ 0x46 then n - 0x37
    else if 0x61 ≤ n ∧ n ≤ 0x66 then n - 0x57
    else base
  if d < base then some d else none

/-- The value of digits in a base, after the value read so far. -/
def digitsValue (base : Nat) : Nat → List Char → Option Nat
  | v, [] => some v
  | v, c :: cs => (digitValue base c).bind (fun d => digitsValue base (v * base + d) cs)

/-- A number: decimal, `0x` hexadecimal or `0b` binary (R81). -/
def readNat : List Char → Option Nat
  | [] => none
  | '0' :: 'x' :: c :: cs => digitsValue 16 0 (c :: cs)
  | '0' :: 'b' :: c :: cs => digitsValue 2 0 (c :: cs)
  | c :: cs => digitsValue 10 0 (c :: cs)

/-- A signed number, as `int` takes it (R183). The spec shows a decimal number after a minus sign, and R81 gives the
bases of unsigned numbers; that a minus sign may stand before a number of any of the three bases, and that a plus sign
is refused, is a DESIGN CHOICE (log 10). -/
def readInt : List Char → Option Int
  | '-' :: cs => (readNat cs).map (fun n => -(n : Int))
  | cs => (readNat cs).map (fun n => (n : Int))

/-- The mnemonics of R81 and R82. -/
inductive AsmOp where
  | nop
  | cmd
  | data
  | move
  | clear
  | word
  | string
  | strat
  | int
deriving DecidableEq, Repr

/-- The mnemonic that a token spells. -/
def readOp : List Char → Option AsmOp
  | ['n', 'o', 'p'] => some .nop
  | ['c', 'm', 'd'] => some .cmd
  | ['d', 'a', 't', 'a'] => some .data
  | ['m', 'o', 'v', 'e'] => some .move
  | ['c', 'l', 'e', 'a', 'r'] => some .clear
  | ['.', 'w', 'o', 'r', 'd'] => some .word
  | ['s', 't', 'r', 'i', 'n', 'g'] => some .string
  | ['s', 't', 'r', 'a', 't'] => some .strat
  | ['i', 'n', 't'] => some .int
  | _ => none

/-- The operands of a mnemonic (R81, R82). -/
def readOperands : AsmOp → List AsmTok → Option AsmLine
  | .nop, [] => some .nop
  | .clear, [] => some .clear
  | .cmd, [.run n] => (readNat n).map .cmd
  | .data, [.run n] => (readNat n).map .data
  | .data, [.chr code] => some (.data code)
  | .move, [.run r, .comma, .run c] => (readNat r).bind (fun row => (readNat c).map (.move row))
  | .word, [.run n] => (readNat n).map .word
  | .string, [.text t] => some (.string t)
  | .strat, [.run r, .comma, .run c, .comma, .text t] =>
    (readNat r).bind (fun row => (readNat c).map (fun col => .strat row col t))
  | .int, [.run n] => (readInt n).map .int
  | _, _ => none

/-- One line of source text (R81, R82); none where the assembler refuses it. -/
def readLine (line : List Char) : Option AsmLine :=
  (lexLine (.plain []) line).bind (fun toks =>
    match toks with
    | [] => some .blank
    | .run m :: rest => (readOp m).bind (fun op => readOperands op rest)
    | _ => none)

/-- The request words of a source line (R81, R82). -/
def assembleText (p : Params) (line : List Char) : Option (List Word) :=
  (readLine line).bind (assembleLine p)

end Sys2Proof.Machine
end

