-- ==== Sys2Proof/Machine/Ports.lean ====
section
/-! DEFINITION. The output ports (R22) and the latch event the controller sees (R107), as functions of the
registers. -/

namespace Sys2Proof.Machine

/-- The output ports (R22). `none` is the level Z of an undriven pin (R7). -/
structure Ports where
  lcdRs      : Option Bool
  lcdRw      : Option Bool
  lcdE       : Option Bool
  lcdDb      : Option Byte
  reqReady   : Bool
  respValid  : Bool
  respStatus : BitVec 2
  initDone   : Bool
deriving DecidableEq, Repr

/-- A pin driven with a register's level, or Z (R22: `oe_q ? v : Z`). -/
def driven {α : Type} (oe : Bool) (v : α) : Option α := if oe then some v else none

/-- The outputs of a cycle, by its registers alone (R22). -/
def ports (s : State) : Ports :=
  { lcdRs := driven s.oeQ s.rsQ
    lcdRw := driven s.oeQ s.rwQ
    lcdE := driven s.oeQ s.eQ
    lcdDb := driven s.oeQ s.dbQ
    reqReady := Sys2Proof.Machine.reqReady s
    respValid := s.respValidQ
    respStatus := s.respStatusQ.code
    initDone := s.initDoneQ }

/-- A latch event `LcdLatch(rs, rw, v)` (R10, R107). -/
structure Latch where
  rs : Bool
  rw : Bool
  v  : Byte
deriving DecidableEq, Repr

/-- The latch event of the edge between two cycles (R107): E falls while the outputs are driven on both sides, and the
event has the levels of the cycle before. -/
def latchEvent (before after : State) : Option Latch :=
  if before.eQ && !after.eQ && before.oeQ && after.oeQ then some ⟨before.rsQ, before.rwQ, before.dbQ⟩ else none

end Sys2Proof.Machine
end

