-- ==== Sys2Proof/Machine/Trace.lean ====
section
/-! DEFINITION. The observable record of a run (R107, R215): its latch events and its responses, each with the number
of its edge. The state does not hold it; it is read off consecutive states. -/

namespace Sys2Proof.Machine

/-- The state after k edges, if the machine has one. -/
def runEdges : Nat → State → Option State
  | 0, s => some s
  | k + 1, s =>
    match step s with
    | .next t => runEdges k t
    | .fault _ => none
    | .refused _ => none

/-- The latch events of the next k edges, the first of which has number n (R107). -/
def latchLog (n : Nat) : Nat → State → List (Nat × Latch)
  | 0, _ => []
  | k + 1, s =>
    match step s with
    | .next t => ((latchEvent s t).map (fun l => (n, l))).toList ++ latchLog (n + 1) k t
    | .fault _ => []
    | .refused _ => []

/-- The responses of the next k edges: the number of the edge at which a request completes, and its status (R29). -/
def responseLog (n : Nat) : Nat → State → List (Nat × Status)
  | 0, _ => []
  | k + 1, s =>
    match step s with
    | .next t => (if t.respValidQ then [(n, t.respStatusQ)] else []) ++ responseLog (n + 1) k t
    | .fault _ => []
    | .refused _ => []

end Sys2Proof.Machine
end

