-- ==== Sys2Proof/Safety.lean ====
section
/-! DEFINITION. What holds of a well-behaved engine: the invariants of R37, what makes them inductive, and the states
reachable from a reset. -/

namespace Sys2Proof.Machine

/-- The seven invariants of R37, clause by clause. -/
structure R37 (s : State) : Prop where
  /-- (a) -/
  rwLow : s.rwQ = false
  /-- (b) -/
  eHigh : s.eQ = true ↔ (s.phase = .EH ∨ s.phase = .DS)
  /-- (c) -/
  oeLow : s.oeQ = false ↔ s.phase = .CFG
  /-- (d) -/
  initRuns : s.inInit = true → s.initDoneQ = false ∧ s.phase.inTransfer = true
  /-- (e) -/
  idleReady : s.phase = .IDLE → s.inInit = false ∧ s.initDoneQ = true
  /-- (f) -/
  secondOfTwo : s.nib = true → s.two = true
  /-- (g) -/
  twoNarrow : s.two = true → s.params.busWidth = 4

/-- The invariant of the engine: R37, that its parameters are well formed, and the widths and ranges of the registers
(R23, R26, R27) that make it inductive. -/
structure EngineInv (s : State) : Prop where
  r37 : R37 s
  /-- R6. -/
  paramsWf : s.params.wf = true
  /-- Before the init sequence nothing of it has run (R30, R140 to R142). -/
  boot : (s.phase = .CFG ∨ s.phase = .PWR) → s.inInit = false ∧ s.initDoneQ = false ∧ s.initIdx = 0
  /-- A transfer that is no init entry is a request's, and a request is taken only after initialization (R145). -/
  owner : s.phase.inTransfer = true → s.inInit = false → s.initDoneQ = true
  /-- `cnt` fits in `CNT_W` bits (R23). -/
  cntFits : s.cnt < 2 ^ s.params.cntW
  /-- `xwait` fits in `CNT_W + 1` bits, being a legal wait (R6, R23). -/
  xwaitFits : s.xwait ≤ 2 ^ s.params.cntW
  /-- The execution wait of a transfer is at least one cycle (R100). -/
  xwaitPos : s.phase.inTransfer = true → 1 ≤ s.xwait
  /-- A running entry is one of `INIT_SEQ` (R27). -/
  idxRuns : s.inInit = true → s.initIdx < s.params.initLen
  /-- `init_idx` reaches `INIT_LEN` at the end and stays there (R27). -/
  idxDone : s.initDoneQ = true → s.initIdx = s.params.initLen
  /-- On a 4-bit bus `db_q` is four bits wide (R23). -/
  dbFits : s.params.busWidth = 4 → s.dbQ.toNat < 16
  /-- A response is given with the engine ready again (R106, R123, R201). -/
  respIdle : s.respValidQ = true → s.phase = .IDLE

/-- The state in the cycle after a reset edge of an engine with these parameters, whatever the host does later
(R36). -/
def afterReset (p : Params) (host : List HostAct) : State :=
  { State.reset with params := p, host := host }

/-- The states reachable from a reset (R37), of every engine under every host. -/
inductive Reachable : State → Prop where
  | reset (p : Params) (host : List HostAct) : Reachable (afterReset p host)
  | step {s t : State} (h : Reachable s) (hs : step s = .next t) : Reachable t

/-- The controller's minimum times, in nanoseconds, as the platform knows them (R235). The spec gives none; the unit is
the model's (log 12). `execCmd` is the longest execution time of any command the host may send (R236). -/
structure Minima where
  pwr      : Nat
  addr     : Nat
  enable   : Nat
  data     : Nat
  hold     : Nat
  execCmd  : Nat
  execData : Nat
  /-- The processing delays that `W_NIB1` and `W_NIB2` stand for (R147). -/
  nib1     : Nat
  nib2     : Nat
  /-- The processing delay after each entry of `INIT_SEQ`, in order (R80). -/
  entries  : List Nat
deriving DecidableEq, Repr

/-- The minima of the entries of the default `INIT_SEQ` for a bus width, entry by entry (R146, R147). -/
def Minima.defaultEntries (m : Minima) (busWidth : Nat) : List Nat :=
  if busWidth = 4 then
    [m.nib1, m.nib2, m.execCmd, m.execCmd, m.execCmd, m.execCmd, m.execCmd, m.execCmd]
  else [m.execCmd, m.execCmd, m.execCmd, m.execCmd]

/-- `ceil(t · f)` cycles, for t in nanoseconds and a clock of f Hz (R235). -/
def cyclesFor (tNs fHz : Nat) : Nat := (tNs * fHz + 999999999) / 1000000000

/-- `T_X ≥ ceil(t_X · f)` for each of the nine named waits of R5 (R235, R236). `W_NIB1` and `W_NIB2` stand in the
defaults that a build makes its `INIT_SEQ` from. -/
def WaitsMeet (p : Params) (d : InitDefaults) (m : Minima) (fHz : Nat) : Prop :=
  cyclesFor m.pwr fHz ≤ p.tPwr ∧ cyclesFor m.addr fHz ≤ p.tAs ∧ cyclesFor m.enable fHz ≤ p.tEh ∧
  cyclesFor m.data fHz ≤ p.tDs ∧ cyclesFor m.hold fHz ≤ p.tH ∧ cyclesFor m.execCmd fHz ≤ p.tExecCmd ∧
  cyclesFor m.execData fHz ≤ p.tExecData ∧ cyclesFor m.nib1 fHz ≤ d.wNib1 ∧ cyclesFor m.nib2 fHz ≤ d.wNib2

/-- Each entry's own wait is at least the processing delay after it (R235; an entry wait is a timing parameter by D13 of
92_eei_decisions.md). -/
def EntriesMeet (es : List InitEntry) (tsNs : List Nat) (fHz : Nat) : Prop :=
  tsNs.length = es.length ∧ ∀ x ∈ es.zip tsNs, cyclesFor x.2 fHz ≤ x.1.wait

/-- The platform's obligation on every timing parameter (R235, R236). No behaviour of the engine depends on it: a
transfer whose waits are too short is answered `OK` all the same (R205). -/
def MeetsTiming (p : Params) (d : InitDefaults) (m : Minima) (fHz : Nat) : Prop :=
  WaitsMeet p d m fHz ∧ EntriesMeet p.initSeq m.entries fHz

/-- A host act that holds `rst = 1`. -/
def HostAct.resets : HostAct → Bool
  | .drive rst _ _ => rst
  | .offer _ => false

/-- The host resets nothing from here on. -/
def noReset (host : List HostAct) : Bool :=
  host.all (fun a => !a.resets)

end Sys2Proof.Machine
end

