-- ==== Sys2Proof/Certificates/Slice0/Obligations.lean ====
section
/-! DEFINITION. The statements for the provers, and the few definitions they are written with. -/

namespace Sys2Proof.Statements

open Sys2Proof.Machine

/-- The state an edge's rule starts from: the host's act of the edge is taken, `resp_valid_q` is 0 unless the rule sets
it (R29), and every register keeps its value (R9). -/
def taken (s : State) : State :=
  { s with host := (advanceHost s).host, respValidQ := false }

/-- The next edge of this state samples `rst = 0`, on an engine that exists (R6, R21). -/
def Runs (s : State) : Prop := s.params.wf = true ∧ (sampled s).rst = false

/-- `BUS_WIDTH = 4` as a Boolean (R122). -/
def narrow (p : Params) : Bool := p.busWidth == 4

/-- The cycles from the edge that starts a transfer of n pulses with execution wait x to the edge that ends it
(R241). -/
def transferCycles (p : Params) (n x : Nat) : Nat := p.tAs + n * (p.tEh + p.tDs + p.tH) + x

/-- The pulses of a whole byte (R57). -/
def bytePulses (p : Params) : Nat := if p.busWidth = 4 then 2 else 1

/-- The latch events of a whole byte sent by a transfer that starts at edge a (R108, R241). -/
def byteLatches (p : Params) (a : Nat) (rs : Bool) (b : Byte) : List (Nat × Latch) :=
  if p.busWidth = 4 then
    [ (a + p.tAs + p.tEh + p.tDs, ⟨rs, false, BitVec.ofNat 8 (b.toNat / 16)⟩),
      (a + p.tAs + 2 * p.tEh + 2 * p.tDs + p.tH, ⟨rs, false, BitVec.ofNat 8 (b.toNat % 16)⟩) ]
  else [ (a + p.tAs + p.tEh + p.tDs, ⟨rs, false, b⟩) ]

/-- The RS level, the byte and the execution wait of a request that sends something (R124, R125, R162, R163). -/
def sent (p : Params) : Instr → Option (Bool × Byte × Nat)
  | .cmd b => some (false, b, p.tExecCmd)
  | .data b => some (true, b, p.tExecData)
  | .move r c =>
    if r.toNat < p.numRows ∧ c.toNat ≤ p.colMax then
      some (false, BitVec.ofNat 8 (0x80 + p.rowBaseAt r.toNat + c.toNat), p.tExecCmd)
    else none
  | .clear => some (false, 0x01, p.tExecCmd)
  | .nop => none
  | .ibyte _ _ => none
  | .inib _ _ => none

/-- The length `D_i` of an init entry (R148). -/
def entryCycles (p : Params) (e : InitEntry) : Nat :=
  match e.kind with
  | .ibyte => transferCycles p (bytePulses p) e.wait
  | .inib => transferCycles p 1 e.wait

/-- The latch events of an init entry that starts at edge a (R143, R144). -/
def entryLatches (p : Params) (a : Nat) (e : InitEntry) : List (Nat × Latch) :=
  match e.kind with
  | .ibyte => byteLatches p a false e.value
  | .inib => [ (a + p.tAs + p.tEh + p.tDs, ⟨false, false, BitVec.ofNat 8 (e.value.toNat % 16)⟩) ]

/-- The length of a list of init entries (R148). -/
def seqCycles (p : Params) (es : List InitEntry) : Nat := (es.map (entryCycles p)).sum

/-- The latch events of a list of init entries, the first of which starts at edge a. -/
def seqLatches (p : Params) : Nat → List InitEntry → List (Nat × Latch)
  | _, [] => []
  | a, e :: es => entryLatches p a e ++ seqLatches p (a + entryCycles p e) es

/-- The edge completes a request (R29): a request's execution wait ends, or a NOP, a MOVE out of range or an illegal
word is taken. -/
def Completes (s : State) : Prop :=
  (s.phase = .EXEC ∧ s.cnt = 0 ∧ s.inInit = false) ∨
  (s.phase = .IDLE ∧ (sampled s).reqValid = true ∧
    match decodeRequest (sampled s).reqWord with
    | .instr i => sent s.params i = none
    | .illegal _ => True)

/-- What the request word w sends, if it is performed by a transfer. -/
def sentByWord (p : Params) (w : Word) : Option (Bool × Byte × Nat) :=
  match decodeRequest w with
  | .instr i => sent p i
  | .illegal _ => none

/-- The status that answers the request word w (R202, R203). -/
def answer (p : Params) (w : Word) : Status :=
  match decodeRequest w with
  | .illegal _ => .errIllegal
  | .instr (.move r c) =>
    if p.numRows ≤ r.toNat then .errRow else if p.colMax < c.toNat then .errCol else .ok
  | .instr _ => .ok

/-- The latency `L` of the request word w (R241). -/
def latency (p : Params) (w : Word) : Nat :=
  match sentByWord p w with
  | some (_, _, x) => transferCycles p (bytePulses p) x
  | none => 0

/-- The latch events of the request word w, accepted at edge a (R241). -/
def wordLatches (p : Params) (a : Nat) (w : Word) : List (Nat × Latch) :=
  match sentByWord p w with
  | some (rs, b, _) => byteLatches p a rs b
  | none => []

/-- The edges that request words take, one after another: `L + 1` each (R241). -/
def requestsCycles (p : Params) (ws : List Word) : Nat := (ws.map (fun w => latency p w + 1)).sum

/-- The responses of request words, the first of which is accepted at edge a and each next one at the edge after the
response before it (R241). -/
def requestsResponses (p : Params) : Nat → List Word → List (Nat × Status)
  | _, [] => []
  | a, w :: ws => (a + latency p w, answer p w) :: requestsResponses p (a + latency p w + 1) ws

/-- The latch events of those request words. -/
def requestsLatches (p : Params) : Nat → List Word → List (Nat × Latch)
  | _, [] => []
  | a, w :: ws => wordLatches p a w ++ requestsLatches p (a + latency p w + 1) ws

/-- The number that decimal digits in ASCII write. -/
def decimalValue (digits : List Byte) : Nat :=
  digits.foldl (fun v d => v * 10 + (d.toNat - 0x30)) 0

/-- Every byte is an ASCII digit. -/
def AllDigits (digits : List Byte) : Prop := ∀ d ∈ digits, 0x30 ≤ d.toNat ∧ d.toNat ≤ 0x39

end Sys2Proof.Statements

open Sys2Proof Sys2Proof.Machine Sys2Proof.Statements

/-! ### Encoding -/

/-- Words written out bit by bit from R72 to R78 and R80 decode to what they stand for. -/
def Obligations.WrittenOutWordsDecode : Prop :=
  decodeRequest 0b0000000000000000 = .instr .nop ∧
  decodeRequest 0b0001000000111000 = .instr (.cmd 0x38) ∧
  decodeRequest 0b0010000010100101 = .instr (.data 0xA5) ∧
  decodeRequest 0b0011001000000101 = .instr (.move 2 5) ∧
  decodeRequest 0b0011011100111111 = .instr (.move 7 63) ∧
  decodeRequest 0b0100000000000000 = .instr .clear ∧
  (∀ wait, decodeInit 0b000101000 wait = .instr (.ibyte 0x28 wait)) ∧
  (∀ wait, decodeInit 0b100000011 wait = .instr (.inib 3 wait)) ∧
  decodeRequest 0b0000000000000001 = .illegal .reservedBits ∧
  decodeRequest 0b0001000100000000 = .illegal .reservedBits ∧
  decodeRequest 0b0011100000000000 = .illegal .reservedBits ∧
  decodeRequest 0b0011000010000000 = .illegal .reservedBits ∧
  decodeRequest 0b0101000000000000 = .illegal .illegalOpcode ∧
  decodeInit 0b111110011 1 = .illegal .initReservedBits

/-- No operand bit is lost: the code of every instruction decodes to it, with every operand at every value
(R72 to R76, R80). -/
def Obligations.DecodeOfEncodeIsTheInstruction : Prop :=
  ∀ i : Instr, decode (encode i) = .instr i

/-- Each instruction has one code: a code that decodes is the code of what it decodes to (R76, R78, R80). -/
def Obligations.EncodeOfDecodeIsTheCode : Prop :=
  ∀ (c : Code) (i : Instr), decode c = .instr i → encode i = c

/-- The bit patterns of R78: a word is each request exactly when its masked bits match, and is ILLEGAL exactly when no
pattern matches. -/
def Obligations.BitPatternsSelectTheRequest : Prop :=
  ∀ w : Word,
    (decodeRequest w = .instr .nop ↔ w &&& 0xFFFF = 0x0000) ∧
    ((∃ b, decodeRequest w = .instr (.cmd b)) ↔ w &&& 0xFF00 = 0x1000) ∧
    ((∃ b, decodeRequest w = .instr (.data b)) ↔ w &&& 0xFF00 = 0x2000) ∧
    ((∃ r c, decodeRequest w = .instr (.move r c)) ↔ w &&& 0xF8C0 = 0x3000) ∧
    (decodeRequest w = .instr .clear ↔ w &&& 0xFFFF = 0x4000) ∧
    ((∃ e, decodeRequest w = .illegal e) ↔
      ¬(w &&& 0xFFFF = 0x0000 ∨ w &&& 0xFF00 = 0x1000 ∨ w &&& 0xFF00 = 0x2000 ∨ w &&& 0xF8C0 = 0x3000 ∨
        w &&& 0xFFFF = 0x4000))

/-- Operands are the unsigned bit fields of R73 to R75. -/
def Obligations.OperandsAreUnsignedFields : Prop :=
  ∀ w : Word,
    (∀ b, decodeRequest w = .instr (.cmd b) → b.toNat = w.toNat % 256) ∧
    (∀ b, decodeRequest w = .instr (.data b) → b.toNat = w.toNat % 256) ∧
    (∀ r c, decodeRequest w = .instr (.move r c) → r.toNat = w.toNat / 256 % 8 ∧ c.toNat = w.toNat % 64)

/-! ### Reset, parameters and ports -/

/-- A reset edge writes every register's value of R36, whatever the state; the outputs after it are all Z or 0. The
parameters are no registers, and the host goes on (the model's fields). -/
def Obligations.ResetEdgeWritesEveryRegister : Prop :=
  ∀ s : State, s.params.wf = true → (sampled s).rst = true →
    ∃ t, step s = .next t ∧
      t = { params := s.params, phase := .CFG, cnt := 0, oeQ := false, rsQ := false, rwQ := false, eQ := false,
            dbQ := 0x00, xb := 0x00, two := false, nib := false, xwait := 0, inInit := false, initIdx := 0,
            initDoneQ := false, respValidQ := false, respStatusQ := .ok, host := (advanceHost s).host } ∧
      ports t = { lcdRs := none, lcdRw := none, lcdE := none, lcdDb := none, reqReady := false, respValid := false,
                  respStatus := 0b00, initDone := false }

/-- The state the model starts in has the reset values of R36. Its parameters and its silent host are the model's
choice (log 1 and 2); that they define an engine is stated here, not that the hardware has them. -/
def Obligations.ResetStateHasTheResetValues : Prop :=
  State.reset = { params := State.reset.params, phase := .CFG, cnt := 0, oeQ := false, rsQ := false, rwQ := false,
                  eQ := false, dbQ := 0x00, xb := 0x00, two := false, nib := false, xwait := 0, inInit := false,
                  initIdx := 0, initDoneQ := false, respValidQ := false, respStatusQ := .ok, host := [] } ∧
  State.reset.params.wf = true ∧ statusVector State.reset = 0b00000

/-- A reset edge is no latch event, even in a pulse, and gives no response (R107, R231, R232). -/
def Obligations.ResetEdgeIsNoLatchAndNoResponse : Prop :=
  ∀ s t : State, (sampled s).rst = true → step s = .next t → latchEvent s t = none ∧ t.respValidQ = false

/-- An engine exists exactly for a well-formed parameter set (R6): then every step has a next state, from every state;
otherwise every step is refused, and the refusal names exactly the checks that fail. That a set without an engine is
a refused step, and that the refusal lists exactly the failing checks, is the model's choice (log 3); a `CNT_W` of 0
failing under `chk_waits` is the model's reading of R5 (log 9, DEDUCED). -/
def Obligations.StepsExactlyForWellFormedParameters : Prop :=
  ∀ s : State,
    ((∃ t, step s = .next t) ↔ s.params.wf = true) ∧
    (s.params.wf = false → ∃ failed, step s = .refused (.illFormedParams failed) ∧ failed ≠ [] ∧
      ∀ c, c ∈ failed ↔ s.params.holds c = false)

/-- No step changes a parameter, a reset edge included (R5, R20, R32). -/
def Obligations.NoStepChangesAParameter : Prop :=
  ∀ s t : State, step s = .next t → t.params = s.params

/-- The output ports are functions of the registers (R22); `req_ready` is `phase = IDLE` (R31). -/
def Obligations.PortsShowTheRegisters : Prop :=
  ∀ s : State,
    (ports s).lcdRs = (if s.oeQ then some s.rsQ else none) ∧
    (ports s).lcdRw = (if s.oeQ then some s.rwQ else none) ∧
    (ports s).lcdE = (if s.oeQ then some s.eQ else none) ∧
    (ports s).lcdDb = (if s.oeQ then some s.dbQ else none) ∧
    ((ports s).reqReady = true ↔ s.phase = .IDLE) ∧
    (ports s).respValid = s.respValidQ ∧
    (ports s).respStatus = (match s.respStatusQ with | .ok => 0b00 | .errIllegal => 0b01 | .errRow => 0b10 | .errCol => 0b11) ∧
    (ports s).initDone = s.initDoneQ

/-- The status vector of R32, bit by bit. -/
def Obligations.StatusVectorPacksTheStatusOutputs : Prop :=
  ∀ s : State,
    (statusVector s).getLsbD 0 = (ports s).reqReady ∧
    (statusVector s).getLsbD 1 = (ports s).respValid ∧
    (statusVector s).extractLsb' 2 2 = (ports s).respStatus ∧
    (statusVector s).getLsbD 4 = (ports s).initDone

/-! ### The instructions, each at its edge: result, frame and completion

`T_AS - 1` is a subtraction of natural numbers (log 5); the two readings differ only at `T_AS = 0`, which R6 refuses. -/

/-- NOP answers OK at once and changes nothing else, in every state (R123). -/
def Obligations.NopAnswersOk : Prop :=
  ∀ s : State, exec .nop s = .next { s with respValidQ := true, respStatusQ := .ok }

/-- CMD starts the transfer of its byte with RS low and the wait T_EXEC_CMD, in every state, for every byte; no other
register changes (R100, R124). -/
def Obligations.CmdStartsACommandTransfer : Prop :=
  ∀ (s : State) (b : Byte),
    exec (.cmd b) s = .next { s with
      rsQ := false, rwQ := false, xb := b, two := narrow s.params, nib := false, xwait := s.params.tExecCmd,
      phase := .AS, cnt := s.params.tAs - 1, respValidQ := false }

/-- DATA starts the transfer of its byte with RS high and the wait T_EXEC_DATA, in every state, for every byte (0x00
included); no other register changes (R100, R125). -/
def Obligations.DataStartsADataTransfer : Prop :=
  ∀ (s : State) (b : Byte),
    exec (.data b) s = .next { s with
      rsQ := true, rwQ := false, xb := b, two := narrow s.params, nib := false, xwait := s.params.tExecData,
      phase := .AS, cnt := s.params.tAs - 1, respValidQ := false }

/-- CLEAR sends 0x01 as a command, and does exactly what `cmd 0x01` does (R163). -/
def Obligations.ClearSendsTheClearByte : Prop :=
  ∀ s : State,
    exec .clear s = .next { s with
      rsQ := false, rwQ := false, xb := 0x01, two := narrow s.params, nib := false, xwait := s.params.tExecCmd,
      phase := .AS, cnt := s.params.tAs - 1, respValidQ := false } ∧
    exec .clear s = exec (.cmd 0x01) s

/-- MOVE to a row and column in range sends the command byte 0x80 + base + column (R160 to R162, R165): on a well-formed
engine the sum has no bit cut off. No other register changes. -/
def Obligations.MoveInRangeSendsTheSetAddressCommand : Prop :=
  ∀ (s : State) (row : BitVec 3) (col : BitVec 6),
    s.params.wf = true → row.toNat < s.params.numRows → col.toNat ≤ s.params.colMax →
    exec (.move row col) s = .next { s with
      rsQ := false, rwQ := false, xb := BitVec.ofNat 8 (0x80 + s.params.rowBaseAt row.toNat + col.toNat),
      two := narrow s.params, nib := false, xwait := s.params.tExecCmd,
      phase := .AS, cnt := s.params.tAs - 1, respValidQ := false }

/-- MOVE out of range is rejected at once: a bad row with ERR_ROW whatever the column, a bad column of a good row with
ERR_COL; nothing but the response changes (R162, R201 to R203). -/
def Obligations.MoveOutOfRangeIsRejected : Prop :=
  ∀ (s : State) (row : BitVec 3) (col : BitVec 6),
    (s.params.numRows ≤ row.toNat →
      exec (.move row col) s = .next { s with respValidQ := true, respStatusQ := .errRow }) ∧
    (row.toNat < s.params.numRows → s.params.colMax < col.toNat →
      exec (.move row col) s = .next { s with respValidQ := true, respStatusQ := .errCol })

/-- IBYTE starts the transfer of its value as a command byte, with the entry's own wait, in every state (R100, R143). -/
def Obligations.IbyteStartsAnInitByte : Prop :=
  ∀ (s : State) (v : Byte) (wait : Nat),
    exec (.ibyte v wait) s = .next { s with
      rsQ := false, rwQ := false, xb := v, two := narrow s.params, nib := false, xwait := wait,
      phase := .AS, cnt := s.params.tAs - 1, respValidQ := false }

/-- INIB starts a transfer of one pulse, whose nibble is its value, with the entry's own wait, in every state
(R100, R144). That exec does so on an 8-bit bus too, where R144 admits no such entry, is the model's reading (log 8,
DEDUCED); step never runs it there. -/
def Obligations.InibStartsASingleNibble : Prop :=
  ∀ (s : State) (v : BitVec 4) (wait : Nat),
    exec (.inib v wait) s = .next { s with
      rsQ := false, rwQ := false, xb := BitVec.ofNat 8 v.toNat, two := false, nib := false, xwait := wait,
      phase := .AS, cnt := s.params.tAs - 1, respValidQ := false }

/-! ### What a step runs -/

/-- A request offered to an idle engine is decoded and run: the step is the instruction's, at the state in which the
host's act is taken (R120, R122). -/
def Obligations.StepRunsTheOfferedRequest : Prop :=
  ∀ (s : State) (i : Instr), Runs s → s.phase = .IDLE → (sampled s).reqValid = true →
    decodeRequest (sampled s).reqWord = .instr i → step s = exec i (taken s)

/-- An illegal word is answered ERR_ILLEGAL at its acceptance edge, and nothing else changes (R126, R201). -/
def Obligations.StepRejectsAnIllegalWord : Prop :=
  ∀ (s : State) (e : DecodeError), Runs s → s.phase = .IDLE → (sampled s).reqValid = true →
    decodeRequest (sampled s).reqWord = .illegal e →
    step s = .next { taken s with respValidQ := true, respStatusQ := .errIllegal }

/-- An idle edge without a request changes nothing but `resp_valid_q`, which is 0 (R120). -/
def Obligations.IdleEdgeWithoutARequestHolds : Prop :=
  ∀ s : State, Runs s → s.phase = .IDLE → (sampled s).reqValid = false → step s = .next (taken s)

/-- The end of PWR runs init entry 0, and the end of an entry's EXEC runs the next entry, while there is one: the step
is the entry's instruction, whose code decodes to it (R80, R141, R142). -/
def Obligations.StepRunsTheNextInitEntry : Prop :=
  ∀ (s : State) (n : Nat) (e : InitEntry), Runs s → s.cnt = 0 →
    ((s.phase = .PWR ∧ n = 0) ∨ (s.phase = .EXEC ∧ s.inInit = true ∧ n = s.initIdx + 1)) →
    s.params.initSeq[n]? = some e →
    ∃ i, decodeInit e.code e.wait = .instr i ∧ step s = exec i { taken s with initIdx := n, inInit := true }

/-- After the last entry the sequence ends: `init_done_q` is 1, the engine is idle, and no response is given (R142,
R145). An empty INIT_SEQ ends at the PWR exit. -/
def Obligations.StepEndsTheInitSequence : Prop :=
  ∀ (s : State) (n : Nat), Runs s → s.cnt = 0 →
    ((s.phase = .PWR ∧ n = 0) ∨ (s.phase = .EXEC ∧ s.inInit = true ∧ n = s.initIdx + 1)) →
    s.params.initSeq.length ≤ n →
    step s = .next { taken s with
      initIdx := s.params.initSeq.length, inInit := false, initDoneQ := true, phase := .IDLE }

/-- A timed phase with cycles left only counts (R26). -/
def Obligations.TimedPhaseCountsDown : Prop :=
  ∀ s : State, Runs s → s.phase ≠ .CFG → s.phase ≠ .IDLE → 0 < s.cnt →
    step s = .next { taken s with cnt := s.cnt - 1 }

/-- CFG lasts one cycle: the next edge drives the pins and begins the power-on wait (R140). -/
def Obligations.ConfigurationLastsOneCycle : Prop :=
  ∀ s : State, Runs s → s.phase = .CFG →
    step s = .next { taken s with oeQ := true, phase := .PWR, cnt := s.params.tPwr - 1 }

/-- AS exit: E rises (R102). -/
def Obligations.AddressSetupEndsWithERising : Prop :=
  ∀ s : State, Runs s → s.phase = .AS → s.cnt = 0 →
    step s = .next { taken s with eQ := true, phase := .EH, cnt := s.params.tEh - 1 }

/-- EH exit: the pulse's value is placed on the bus (R101, R103). On an 8-bit bus it is the byte, on a 4-bit bus the
high nibble for the first pulse of two and the low nibble otherwise. -/
def Obligations.DataIsPlacedAtTheEhExit : Prop :=
  ∀ s : State, Runs s → s.phase = .EH → s.cnt = 0 →
    ∃ v : Byte, step s = .next { taken s with dbQ := v, phase := .DS, cnt := s.params.tDs - 1 } ∧
      (s.params.busWidth = 8 → v = s.xb) ∧
      (s.params.busWidth = 4 → s.two = true → s.nib = false → v.toNat = s.xb.toNat / 16) ∧
      (s.params.busWidth = 4 → (s.two = false ∨ s.nib = true) → v.toNat = s.xb.toNat % 16)

/-- DS exit: E falls, RS, RW and the bus stay, and in a pulse that is driven this is the latch event of their levels
(R104, R107). -/
def Obligations.DataSetupEndsWithTheLatch : Prop :=
  ∀ s : State, Runs s → s.phase = .DS → s.cnt = 0 →
    ∃ t, step s = .next t ∧ t = { taken s with eQ := false, phase := .HOLD, cnt := s.params.tH - 1 } ∧
      (s.eQ = true → s.oeQ = true → latchEvent s t = some ⟨s.rsQ, s.rwQ, s.dbQ⟩)

/-- HOLD exit: the second pulse of a byte on a 4-bit bus, without a new address-setup wait; else the execution wait
(R105). At `xwait = 0`, which no transfer of an engine has, the count loaded is the model's 0 (log 5, DEDUCED). -/
def Obligations.HoldEndsWithTheSecondPulseOrTheWait : Prop :=
  ∀ s : State, Runs s → s.phase = .HOLD → s.cnt = 0 →
    (s.two = true → s.nib = false →
      step s = .next { taken s with nib := true, eQ := true, phase := .EH, cnt := s.params.tEh - 1 }) ∧
    (s.two = false ∨ s.nib = true → step s = .next { taken s with phase := .EXEC, cnt := s.xwait - 1 })

/-- EXEC exit of a request: the engine is idle and answers OK; no pin changes (R106). -/
def Obligations.RequestEndsWithOk : Prop :=
  ∀ s : State, Runs s → s.phase = .EXEC → s.cnt = 0 → s.inInit = false →
    step s = .next { taken s with phase := .IDLE, respValidQ := true, respStatusQ := .ok }

/-! ### The handshake -/

/-- An offered request stays offered until the engine is ready, and is over at that edge. R121 lays this
duty on the host; that the state's act list carries it out is the model's choice (log 1, DESIGN CHOICE). -/
def Obligations.OfferStaysUntilAccepted : Prop :=
  ∀ (s t : State) (w : Word) (rest : List HostAct), s.host = .offer w :: rest → step s = .next t →
    (s.phase = .IDLE → t.host = rest) ∧ (s.phase ≠ .IDLE → t.host = s.host)

/-- Outside IDLE the engine does not look at the request port: two states that differ only in what the host does, and
sample the same `rst`, have next states that differ only so (R58, R70, R120, R230). -/
def Obligations.BusyEngineIgnoresTheRequestPort : Prop :=
  ∀ (s t : State) (host : List HostAct), s.phase ≠ .IDLE →
    (sampled { s with host := host }).rst = (sampled s).rst → step s = .next t →
    ∃ host', step { s with host := host } = .next { t with host := host' }

/-! ### Flags and sequencing -/

/-- `resp_valid_q` is 1 after an edge without reset exactly when that edge completes a request (R29). -/
def Obligations.ResponseIsGivenExactlyAtCompletion : Prop :=
  ∀ s t : State, (sampled s).rst = false → step s = .next t → (t.respValidQ = true ↔ Completes s)

/-- `resp_status_q` keeps its value until the next response writes it (R28). -/
def Obligations.StatusIsKeptUntilTheNextResponse : Prop :=
  ∀ s t : State, (sampled s).rst = false → step s = .next t → t.respValidQ = false → t.respStatusQ = s.respStatusQ

/-- `init_done_q` falls at no edge without reset, and rises only at the edge that ends the init sequence, into IDLE
(R30, R145). -/
def Obligations.InitDoneRisesOnceAndStays : Prop :=
  ∀ s t : State, (sampled s).rst = false → step s = .next t →
    (s.initDoneQ = true → t.initDoneQ = true) ∧
    (s.initDoneQ = false → t.initDoneQ = true →
      t.phase = .IDLE ∧ t.initIdx = s.params.initSeq.length ∧ t.respValidQ = false)

/-- `init_idx` moves only forward, by one, and never past INIT_LEN (R27), on an engine that meets its invariant. -/
def Obligations.InitIndexMovesForwardByOne : Prop :=
  ∀ s t : State, EngineInv s → (sampled s).rst = false → step s = .next t →
    (t.initIdx = s.initIdx ∨ t.initIdx = s.initIdx + 1) ∧ t.initIdx ≤ s.params.initSeq.length

/-- Once past PWR the engine is never in CFG or PWR again without a reset (R233). -/
def Obligations.BootPhasesDoNotReturn : Prop :=
  ∀ s t : State, (sampled s).rst = false → step s = .next t → s.phase ≠ .CFG → s.phase ≠ .PWR →
    t.phase ≠ .CFG ∧ t.phase ≠ .PWR

/-- A rejected or answered-at-once request changes no pin, nor does an idle edge without a request: an edge at IDLE
that leaves the engine in IDLE keeps RS, RW, E, the bus and the output enable, and latches nothing (R59, R201). -/
def Obligations.AnsweringAtOnceChangesNoPin : Prop :=
  ∀ s t : State, (sampled s).rst = false → step s = .next t → s.phase = .IDLE → t.phase = .IDLE →
    t.oeQ = s.oeQ ∧ t.rsQ = s.rsQ ∧ t.rwQ = s.rwQ ∧ t.eQ = s.eQ ∧ t.dbQ = s.dbQ ∧ latchEvent s t = none

/-- Control lines, Enable and data never change at the same edge (R62), on an engine that meets its invariant. -/
def Obligations.AtMostOneKindOfPinChangesAtAnEdge : Prop :=
  ∀ s t : State, EngineInv s → (sampled s).rst = false → step s = .next t →
    (t.rsQ ≠ s.rsQ → t.eQ = s.eQ ∧ t.dbQ = s.dbQ) ∧
    (t.eQ ≠ s.eQ → t.rsQ = s.rsQ ∧ t.dbQ = s.dbQ) ∧
    t.rwQ = s.rwQ

/-- A latch event happens exactly at a DS exit, with RW low and the levels on the pins (R104, R107, R127), on an engine
that meets its invariant. -/
def Obligations.LatchesHappenExactlyAtDsExits : Prop :=
  ∀ s t : State, EngineInv s → step s = .next t →
    (latchEvent s t ≠ none ↔ (s.phase = .DS ∧ s.cnt = 0 ∧ (sampled s).rst = false)) ∧
    ∀ l, latchEvent s t = some l → l = ⟨s.rsQ, false, s.dbQ⟩

/-! ### Invariants -/

/-- The invariant holds in the cycle after a reset edge of every well-formed engine, and in the model's own reset
state. -/
def Obligations.EngineInvariantHoldsAfterReset : Prop :=
  (∀ (p : Params) (host : List HostAct), p.wf = true → EngineInv (afterReset p host)) ∧ EngineInv State.reset

/-- Every step keeps the engine's invariant, from every state that has it, under every input. -/
def Obligations.EveryStepKeepsTheEngineInvariant : Prop :=
  ∀ s t : State, EngineInv s → step s = .next t → EngineInv t

/-- The invariants of R37 hold in every cycle reachable from reset, for every parameter set and every host. -/
def Obligations.RuleInvariantsHoldInEveryReachableCycle : Prop :=
  ∀ s : State, Reachable s →
    s.rwQ = false ∧
    (s.eQ = true ↔ s.phase = .EH ∨ s.phase = .DS) ∧
    (s.oeQ = false ↔ s.phase = .CFG) ∧
    (s.inInit = true → s.initDoneQ = false ∧
      (s.phase = .AS ∨ s.phase = .EH ∨ s.phase = .DS ∨ s.phase = .HOLD ∨ s.phase = .EXEC)) ∧
    (s.phase = .IDLE → s.inInit = false ∧ s.initDoneQ = true) ∧
    (s.nib = true → s.two = true) ∧
    (s.two = true → s.params.busWidth = 4)

/-! ### Whole transfers -/

/-- A request that sends something, accepted at edge a of an engine that is not reset, runs to its response: its latch
events are exactly those of its byte at the edges of R241; `resp_valid` is 1 with OK in cycle a + L and in no cycle
before; and the engine is not ready until then, whatever the host offers meanwhile (R58, R108, R109, R241). -/
def Obligations.AcceptedRequestRunsToItsResponse : Prop :=
  ∀ (s : State) (a : Nat) (i : Instr) (rs : Bool) (b : Byte) (x : Nat),
    EngineInv s → s.phase = .IDLE → (sampled s).reqValid = true → noReset s.host = true →
    decodeRequest (sampled s).reqWord = .instr i → sent s.params i = some (rs, b, x) →
    latchLog a (transferCycles s.params (bytePulses s.params) x + 1) s = byteLatches s.params a rs b ∧
    (∃ t, runEdges (transferCycles s.params (bytePulses s.params) x + 1) s = some t ∧
      t.phase = .IDLE ∧ t.respValidQ = true ∧ t.respStatusQ = .ok ∧ t.rsQ = rs ∧ t.eQ = false) ∧
    ∀ k, 1 ≤ k → k ≤ transferCycles s.params (bytePulses s.params) x →
      ∃ u, runEdges k s = some u ∧ u.phase ≠ .IDLE ∧ u.respValidQ = false ∧ u.respStatusQ = s.respStatusQ

/-- Requests that a host offers one after another to an idle engine are performed one at a time, in order. Each word
gets exactly one response, of its own status and at the edge of R241, and the latch events of its own byte; the next
word is accepted at the edge after that response; and after the last the engine is idle, meets its invariant, and
nothing is left offered (R58, R61, R121, R180, R202, R241). That the host's words are a list of offer acts in the state
is the model's choice (log 1, DESIGN CHOICE). -/
def Obligations.OfferedRequestsAreTakenInOrderWithOneResponseEach : Prop :=
  ∀ (s : State) (a : Nat) (ws : List Word), EngineInv s → s.phase = .IDLE → s.host = offers ws →
    responseLog a (requestsCycles s.params ws) s = requestsResponses s.params a ws ∧
    latchLog a (requestsCycles s.params ws) s = requestsLatches s.params a ws ∧
    ∃ t, runEdges (requestsCycles s.params ws) s = some t ∧ EngineInv t ∧ t.phase = .IDLE ∧ t.host = []

/-- From the cycle r after a reset edge, with no further reset, the init sequence runs every entry once and in order,
each latch event at its edge; `init_done` and `req_ready` first read 1 in cycle r + 1 + T_PWR + Σ D_i; and no response
is given (R142 to R145, R148, R149). -/
def Obligations.InitSequenceRunsEveryEntryInOrder : Prop :=
  ∀ (p : Params) (host : List HostAct) (r : Nat), p.wf = true → noReset host = true →
    latchLog (r + 1) (1 + p.tPwr + seqCycles p p.initSeq) (afterReset p host) =
      seqLatches p (r + 1 + p.tPwr) p.initSeq ∧
    (∃ t, runEdges (1 + p.tPwr + seqCycles p p.initSeq) (afterReset p host) = some t ∧
      t.phase = .IDLE ∧ t.initDoneQ = true ∧ t.initIdx = p.initSeq.length ∧ t.respValidQ = false ∧
      t.respStatusQ = .ok) ∧
    ∀ k, k < 1 + p.tPwr + seqCycles p p.initSeq →
      ∃ u, runEdges k (afterReset p host) = some u ∧ u.phase ≠ .IDLE ∧ u.initDoneQ = false ∧ u.respValidQ = false

/-! ### The address decoder -/

/-- The command byte of an offset is its OR with 0x80 (R161). For every accepted row and column the offset is
base + column with no bit cut off, and the OR is the sum base + column + 0x80 (R160, R165). -/
def Obligations.AcceptedPairsMapToBasePlusColumn : Prop :=
  (∀ a : BitVec 7, setAddrCmd a = 0x80 ||| a.setWidth 8) ∧
  ∀ (p : Params) (row : BitVec 3) (col : BitVec 6),
    p.wf = true → row.toNat < p.numRows → col.toNat ≤ p.colMax →
    p.rowBaseAt row.toNat + col.toNat ≤ 0x7F ∧
    (ddramAddr p row col).toNat = p.rowBaseAt row.toNat + col.toNat ∧
    (setAddrCmd (ddramAddr p row col)).toNat = 0x80 ||| (p.rowBaseAt row.toNat + col.toNat) ∧
    (setAddrCmd (ddramAddr p row col)).toNat = p.rowBaseAt row.toNat + col.toNat + 0x80

/-- On every engine whose row table is (0x00, 0x40, 0x10, 0x50), with four rows and COL_MAX = 39: the offsets and command
bytes of every accepted pair, and the aliased pairs of rows 0 and 2 and of rows 1 and 3, which do the same thing and
are no error (R166). -/
def Obligations.HardwareRowTableMapAndAliases : Prop :=
  ∀ p : Params, p.rowBase0 = 0x00 → p.rowBase1 = 0x40 → p.rowBase2 = 0x10 → p.rowBase3 = 0x50 → p.numRows = 4 →
    p.colMax = 39 →
    (∀ c : BitVec 6, c.toNat ≤ 39 →
      (ddramAddr p 0 c).toNat = 0x00 + c.toNat ∧
      (ddramAddr p 1 c).toNat = 0x40 + c.toNat ∧
      (ddramAddr p 2 c).toNat = 0x10 + c.toNat ∧
      (ddramAddr p 3 c).toNat = 0x50 + c.toNat ∧
      (setAddrCmd (ddramAddr p 0 c)).toNat = 0x80 + c.toNat ∧
      (setAddrCmd (ddramAddr p 1 c)).toNat = 0xC0 + c.toNat ∧
      (setAddrCmd (ddramAddr p 2 c)).toNat = 0x90 + c.toNat ∧
      (setAddrCmd (ddramAddr p 3 c)).toNat = 0xD0 + c.toNat) ∧
    ∀ (c : BitVec 6) (s : State), 16 ≤ c.toNat → c.toNat ≤ 39 → s.params = p →
      ddramAddr p 0 c = ddramAddr p 2 (c - 16) ∧
      ddramAddr p 1 c = ddramAddr p 3 (c - 16) ∧
      exec (.move 0 c) s = exec (.move 2 (c - 16)) s ∧
      exec (.move 1 c) s = exec (.move 3 (c - 16)) s ∧
      ∃ t u, exec (.move 0 c) s = .next t ∧ t.phase = .AS ∧ exec (.move 1 c) s = .next u ∧ u.phase = .AS

/-! ### The host text layer -/

/-- `string` emits one DATA for each byte before the first 0x00, in order, and nothing after it; each word decodes to
that DATA (R181, R184). -/
def Obligations.StringSendsTheBytesBeforeTheTerminator : Prop :=
  ∀ (p : Params) (text rest : List Byte), (∀ b ∈ text, b ≠ 0x00) →
    Pseudo.expand p (.string text) = some (stringWords text) ∧
    Pseudo.expand p (.string (text ++ 0x00 :: rest)) = some (stringWords text) ∧
    (stringWords text).map decodeRequest = text.map (fun b => Decoded.instr (.data b))

/-- `strat` in range emits the MOVE to its row and column and then its text's DATA requests; out of range it is refused
and nothing is emitted (R182, R184). -/
def Obligations.StratMovesThenSendsItsText : Prop :=
  ∀ (p : Params) (row col : Nat) (text : List Byte), p.wf = true →
    (row < p.numRows → col ≤ p.colMax →
      ∃ m, Pseudo.expand p (.strat row col text) = some (m :: stringWords text) ∧
        decodeRequest m = .instr (.move (BitVec.ofNat 3 row) (BitVec.ofNat 6 col)) ∧
        (BitVec.ofNat 3 row).toNat = row ∧ (BitVec.ofNat 6 col).toNat = col) ∧
    ((p.numRows ≤ row ∨ p.colMax < col) → Pseudo.expand p (.strat row col text) = none)

/-- `int` writes its value in decimal: a minus sign exactly for a negative value, then digits that read back as the
magnitude (2^31 included), with no leading zero unless the value is 0 (R183). -/
def Obligations.IntTextReadsBackAsTheValue : Prop :=
  ∀ (p : Params) (v : BitVec 32),
    Pseudo.expand p (.int v) = some ((intText v).map dataWord) ∧
    ∃ digits, intText v = (if v.toInt < 0 then [0x2D] else []) ++ digits ∧ digits ≠ [] ∧ AllDigits digits ∧
      decimalValue digits = v.toInt.natAbs ∧ (digits.head? = some 0x30 → v.toInt = 0 ∧ digits = [0x30])

/-- The assembler's request lines give the words that decode to them, an operand that does not fit its field is
refused, and `.word` gives the word as it stands, a legal or an illegal one (R81). That `.word` refuses a number above
16 bits is the model's choice (log 10, DESIGN CHOICE). -/
def Obligations.AssembledLinesDecodeToTheirRequests : Prop :=
  ∀ (p : Params) (m n : Nat),
    ((assembleLine p .nop).map (List.map decodeRequest) = some [.instr .nop]) ∧
    ((assembleLine p .clear).map (List.map decodeRequest) = some [.instr .clear]) ∧
    (n ≤ 255 → (assembleLine p (.cmd n)).map (List.map decodeRequest) = some [.instr (.cmd (BitVec.ofNat 8 n))]) ∧
    (n ≤ 255 → (assembleLine p (.data n)).map (List.map decodeRequest) = some [.instr (.data (BitVec.ofNat 8 n))]) ∧
    (255 < n → assembleLine p (.cmd n) = none ∧ assembleLine p (.data n) = none) ∧
    (m ≤ 7 → n ≤ 63 → (assembleLine p (.move m n)).map (List.map decodeRequest) =
      some [.instr (.move (BitVec.ofNat 3 m) (BitVec.ofNat 6 n))]) ∧
    (7 < m ∨ 63 < n → assembleLine p (.move m n) = none) ∧
    (n ≤ 0xFFFF → ∃ w : Word, assembleLine p (.word n) = some [w] ∧ w.toNat = n) ∧
    ((assembleLine p (.word 0x38FF)).map (List.map decodeRequest) = some [.illegal .reservedBits]) ∧
    ((assembleLine p (.word 0x5000)).map (List.map decodeRequest) = some [.illegal .illegalOpcode]) ∧
    (0xFFFF < n → assembleLine p (.word n) = none)

/-- In a source text each character stands for its ASCII code and `\0` for 0x00: a `string` line with any ASCII
characters but the closing quote gives the DATA words of those bytes before the first 0x00. A backslash that no 0
follows is the character 0x5C (R81, R82, R181). -/
def Obligations.TextCharactersStandForTheirCodes : Prop :=
  (∀ (p : Params) (cs : List Char), (∀ c ∈ cs, c.toNat ≤ 0x7F ∧ c.toNat ≠ 0x22) →
    assembleText p (['s', 't', 'r', 'i', 'n', 'g', ' ', '"'] ++ cs ++ ['"']) =
      some (stringWords (textBytes (cs.map (fun c => BitVec.ofNat 8 c.toNat))))) ∧
  (∀ t : List Byte, 0x5C ∉ t → textBytes t = t) ∧
  (∀ t u : List Byte, 0x5C ∉ t → textBytes (t ++ 0x5C :: 0x30 :: u) = t ++ 0x00 :: textBytes u) ∧
  (∀ t u : List Byte, 0x5C ∉ t → u.head? ≠ some 0x30 → textBytes (t ++ 0x5C :: u) = t ++ 0x5C :: textBytes u)

/-! ### Timing obligations of the platform -/

/-- The platform's obligation holds exactly when every timing parameter lasts at least its minimum: each of the nine
named waits, and each init entry's own wait, which has one minimum each (R235). The nanosecond and the hertz are the
model's units (log 12, DESIGN CHOICE). -/
def Obligations.TimingObligationBoundsEveryWait : Prop :=
  ∀ (p : Params) (d : InitDefaults) (m : Minima) (f : Nat),
    MeetsTiming p d m f ↔
      (m.pwr * f ≤ p.tPwr * 1000000000 ∧ m.addr * f ≤ p.tAs * 1000000000 ∧ m.enable * f ≤ p.tEh * 1000000000 ∧
        m.data * f ≤ p.tDs * 1000000000 ∧ m.hold * f ≤ p.tH * 1000000000 ∧
        m.execCmd * f ≤ p.tExecCmd * 1000000000 ∧ m.execData * f ≤ p.tExecData * 1000000000 ∧
        m.nib1 * f ≤ d.wNib1 * 1000000000 ∧ m.nib2 * f ≤ d.wNib2 * 1000000000) ∧
      m.entries.length = p.initSeq.length ∧
      ∀ (i : Nat) (e : InitEntry) (t : Nat), p.initSeq[i]? = some e → m.entries[i]? = some t →
        t * f ≤ e.wait * 1000000000

/-- The default `INIT_SEQ` of either bus width meets its entries' minima whenever the named waits meet theirs: entries
0 and 1 of the 4-bit sequence wait `W_NIB1` and `W_NIB2`, every other entry `T_EXEC_CMD` (R146, R147, R235). -/
def Obligations.DefaultInitSequenceMeetsItsMinima : Prop :=
  ∀ (p : Params) (d : InitDefaults) (m : Minima) (bw f : Nat), WaitsMeet p d m f →
    EntriesMeet (defaultInitSeq d bw p.tExecCmd) (m.defaultEntries bw) f
end

