-- ==== Sys2Proof/Laws/Decode.lean ====
section
/-! SUPPORT. The fields of a word and the words of the formats as numbers. -/

namespace Sys2Proof

theorem toNat_append_eq {m n : Nat} (a : BitVec m) (b : BitVec n) : (a ++ b).toNat = a.toNat * 2 ^ n + b.toNat := by
  rw [BitVec.toNat_append, ← Nat.shiftLeft_add_eq_or_of_lt b.isLt, Nat.shiftLeft_eq]

theorem encodeN_toNat (op : BitVec 4) : (encodeN op).toNat = op.toNat * 4096 := by
  show (op ++ 0#12 : BitVec (4 + 12)).toNat = _
  rw [toNat_append_eq]
  simp

theorem encodeB_toNat (op : BitVec 4) (b : Byte) : (encodeB op b).toNat = op.toNat * 4096 + b.toNat := by
  show (op ++ 0#4 ++ b : BitVec (4 + 4 + 8)).toNat = _
  rw [toNat_append_eq, toNat_append_eq]
  simp
  omega

theorem encodeM_toNat (op : BitVec 4) (r : BitVec 3) (c : BitVec 6) :
    (encodeM op r c).toNat = op.toNat * 4096 + r.toNat * 256 + c.toNat := by
  show (op ++ 0#1 ++ r ++ 0#2 ++ c : BitVec (4 + 1 + 3 + 2 + 6)).toNat = _
  rw [toNat_append_eq, toNat_append_eq, toNat_append_eq, toNat_append_eq]
  simp
  omega

theorem fieldOp_toNat (w : Word) : (fieldOp w).toNat = w.toNat / 4096 := by
  have := w.isLt
  simp [fieldOp, BitVec.extractLsb'_toNat, Nat.shiftRight_eq_div_pow]
  omega

theorem fieldByte_toNat (w : Word) : (fieldByte w).toNat = w.toNat % 256 := by
  simp [fieldByte, BitVec.extractLsb'_toNat]

theorem fieldRow_toNat (w : Word) : (fieldRow w).toNat = w.toNat / 256 % 8 := by
  simp [fieldRow, BitVec.extractLsb'_toNat, Nat.shiftRight_eq_div_pow]

theorem fieldCol_toNat (w : Word) : (fieldCol w).toNat = w.toNat % 64 := by
  simp [fieldCol, BitVec.extractLsb'_toNat]

theorem reservedN_iff (w : Word) : reservedN w = true ↔ w.toNat % 4096 = 0 := by
  simp [reservedN, ← BitVec.toNat_inj, BitVec.extractLsb'_toNat]

theorem reservedB_iff (w : Word) : reservedB w = true ↔ w.toNat / 256 % 16 = 0 := by
  simp [reservedB, ← BitVec.toNat_inj, BitVec.extractLsb'_toNat, Nat.shiftRight_eq_div_pow]

theorem reservedM_iff (w : Word) : reservedM w = true ↔ w.toNat / 2048 % 2 = 0 ∧ w.toNat / 64 % 4 = 0 := by
  simp [reservedM, ← BitVec.toNat_inj, BitVec.extractLsb'_toNat, Nat.shiftRight_eq_div_pow]

/-- The decoder of init codes answers only init entries, with the wait it was given (R80). -/
theorem decodeInit_cases {code : InitCode} {wait : Nat} {i : Instr} (h : decodeInit code wait = .instr i) :
    (∃ v, i = .ibyte v wait) ∨ (∃ v, i = .inib v wait) := by
  unfold decodeInit at h
  repeat' split at h
  all_goals cases h
  all_goals simp

end Sys2Proof
end

