-- ==== Sys2Proof/Laws/State.lean ====
section
/-! SUPPORT. One lemma per field for each shared operation, so that no later proof unfolds a record update. -/

namespace Sys2Proof.Machine

/-! ### `respond` -/

@[simp] theorem respond_params (st : Status) (s : State) : (respond st s).params = s.params := rfl
@[simp] theorem respond_phase (st : Status) (s : State) : (respond st s).phase = s.phase := rfl
@[simp] theorem respond_cnt (st : Status) (s : State) : (respond st s).cnt = s.cnt := rfl
@[simp] theorem respond_oeQ (st : Status) (s : State) : (respond st s).oeQ = s.oeQ := rfl
@[simp] theorem respond_rsQ (st : Status) (s : State) : (respond st s).rsQ = s.rsQ := rfl
@[simp] theorem respond_rwQ (st : Status) (s : State) : (respond st s).rwQ = s.rwQ := rfl
@[simp] theorem respond_eQ (st : Status) (s : State) : (respond st s).eQ = s.eQ := rfl
@[simp] theorem respond_dbQ (st : Status) (s : State) : (respond st s).dbQ = s.dbQ := rfl
@[simp] theorem respond_xb (st : Status) (s : State) : (respond st s).xb = s.xb := rfl
@[simp] theorem respond_two (st : Status) (s : State) : (respond st s).two = s.two := rfl
@[simp] theorem respond_nib (st : Status) (s : State) : (respond st s).nib = s.nib := rfl
@[simp] theorem respond_xwait (st : Status) (s : State) : (respond st s).xwait = s.xwait := rfl
@[simp] theorem respond_inInit (st : Status) (s : State) : (respond st s).inInit = s.inInit := rfl
@[simp] theorem respond_initIdx (st : Status) (s : State) : (respond st s).initIdx = s.initIdx := rfl
@[simp] theorem respond_initDoneQ (st : Status) (s : State) : (respond st s).initDoneQ = s.initDoneQ := rfl
@[simp] theorem respond_respValidQ (st : Status) (s : State) : (respond st s).respValidQ = true := rfl
@[simp] theorem respond_respStatusQ (st : Status) (s : State) : (respond st s).respStatusQ = st := rfl
@[simp] theorem respond_host (st : Status) (s : State) : (respond st s).host = s.host := rfl

/-! ### `clearResp` -/

@[simp] theorem clearResp_params (s : State) : (clearResp s).params = s.params := rfl
@[simp] theorem clearResp_phase (s : State) : (clearResp s).phase = s.phase := rfl
@[simp] theorem clearResp_cnt (s : State) : (clearResp s).cnt = s.cnt := rfl
@[simp] theorem clearResp_oeQ (s : State) : (clearResp s).oeQ = s.oeQ := rfl
@[simp] theorem clearResp_rsQ (s : State) : (clearResp s).rsQ = s.rsQ := rfl
@[simp] theorem clearResp_rwQ (s : State) : (clearResp s).rwQ = s.rwQ := rfl
@[simp] theorem clearResp_eQ (s : State) : (clearResp s).eQ = s.eQ := rfl
@[simp] theorem clearResp_dbQ (s : State) : (clearResp s).dbQ = s.dbQ := rfl
@[simp] theorem clearResp_xb (s : State) : (clearResp s).xb = s.xb := rfl
@[simp] theorem clearResp_two (s : State) : (clearResp s).two = s.two := rfl
@[simp] theorem clearResp_nib (s : State) : (clearResp s).nib = s.nib := rfl
@[simp] theorem clearResp_xwait (s : State) : (clearResp s).xwait = s.xwait := rfl
@[simp] theorem clearResp_inInit (s : State) : (clearResp s).inInit = s.inInit := rfl
@[simp] theorem clearResp_initIdx (s : State) : (clearResp s).initIdx = s.initIdx := rfl
@[simp] theorem clearResp_initDoneQ (s : State) : (clearResp s).initDoneQ = s.initDoneQ := rfl
@[simp] theorem clearResp_respValidQ (s : State) : (clearResp s).respValidQ = false := rfl
@[simp] theorem clearResp_respStatusQ (s : State) : (clearResp s).respStatusQ = s.respStatusQ := rfl
@[simp] theorem clearResp_host (s : State) : (clearResp s).host = s.host := rfl

/-! ### `reject` -/

@[simp] theorem reject_params (c : Status) (s : State) : (reject c s).params = s.params := rfl
@[simp] theorem reject_phase (c : Status) (s : State) : (reject c s).phase = s.phase := rfl
@[simp] theorem reject_cnt (c : Status) (s : State) : (reject c s).cnt = s.cnt := rfl
@[simp] theorem reject_oeQ (c : Status) (s : State) : (reject c s).oeQ = s.oeQ := rfl
@[simp] theorem reject_rsQ (c : Status) (s : State) : (reject c s).rsQ = s.rsQ := rfl
@[simp] theorem reject_rwQ (c : Status) (s : State) : (reject c s).rwQ = s.rwQ := rfl
@[simp] theorem reject_eQ (c : Status) (s : State) : (reject c s).eQ = s.eQ := rfl
@[simp] theorem reject_dbQ (c : Status) (s : State) : (reject c s).dbQ = s.dbQ := rfl
@[simp] theorem reject_xb (c : Status) (s : State) : (reject c s).xb = s.xb := rfl
@[simp] theorem reject_two (c : Status) (s : State) : (reject c s).two = s.two := rfl
@[simp] theorem reject_nib (c : Status) (s : State) : (reject c s).nib = s.nib := rfl
@[simp] theorem reject_xwait (c : Status) (s : State) : (reject c s).xwait = s.xwait := rfl
@[simp] theorem reject_inInit (c : Status) (s : State) : (reject c s).inInit = s.inInit := rfl
@[simp] theorem reject_initIdx (c : Status) (s : State) : (reject c s).initIdx = s.initIdx := rfl
@[simp] theorem reject_initDoneQ (c : Status) (s : State) : (reject c s).initDoneQ = s.initDoneQ := rfl
@[simp] theorem reject_respValidQ (c : Status) (s : State) : (reject c s).respValidQ = true := rfl
@[simp] theorem reject_respStatusQ (c : Status) (s : State) : (reject c s).respStatusQ = c := rfl
@[simp] theorem reject_host (c : Status) (s : State) : (reject c s).host = s.host := rfl

/-! ### `countDown` -/

@[simp] theorem countDown_params (s : State) : (countDown s).params = s.params := rfl
@[simp] theorem countDown_phase (s : State) : (countDown s).phase = s.phase := rfl
@[simp] theorem countDown_cnt (s : State) : (countDown s).cnt = s.cnt - 1 := rfl
@[simp] theorem countDown_oeQ (s : State) : (countDown s).oeQ = s.oeQ := rfl
@[simp] theorem countDown_rsQ (s : State) : (countDown s).rsQ = s.rsQ := rfl
@[simp] theorem countDown_rwQ (s : State) : (countDown s).rwQ = s.rwQ := rfl
@[simp] theorem countDown_eQ (s : State) : (countDown s).eQ = s.eQ := rfl
@[simp] theorem countDown_dbQ (s : State) : (countDown s).dbQ = s.dbQ := rfl
@[simp] theorem countDown_xb (s : State) : (countDown s).xb = s.xb := rfl
@[simp] theorem countDown_two (s : State) : (countDown s).two = s.two := rfl
@[simp] theorem countDown_nib (s : State) : (countDown s).nib = s.nib := rfl
@[simp] theorem countDown_xwait (s : State) : (countDown s).xwait = s.xwait := rfl
@[simp] theorem countDown_inInit (s : State) : (countDown s).inInit = s.inInit := rfl
@[simp] theorem countDown_initIdx (s : State) : (countDown s).initIdx = s.initIdx := rfl
@[simp] theorem countDown_initDoneQ (s : State) : (countDown s).initDoneQ = s.initDoneQ := rfl
@[simp] theorem countDown_respValidQ (s : State) : (countDown s).respValidQ = s.respValidQ := rfl
@[simp] theorem countDown_respStatusQ (s : State) : (countDown s).respStatusQ = s.respStatusQ := rfl
@[simp] theorem countDown_host (s : State) : (countDown s).host = s.host := rfl

/-! ### `enterPhase` -/

@[simp] theorem enterPhase_params (ph : Phase) (t : Nat) (s : State) : (enterPhase ph t s).params = s.params := rfl
@[simp] theorem enterPhase_phase (ph : Phase) (t : Nat) (s : State) : (enterPhase ph t s).phase = ph := rfl
@[simp] theorem enterPhase_cnt (ph : Phase) (t : Nat) (s : State) : (enterPhase ph t s).cnt = t - 1 := rfl
@[simp] theorem enterPhase_oeQ (ph : Phase) (t : Nat) (s : State) : (enterPhase ph t s).oeQ = s.oeQ := rfl
@[simp] theorem enterPhase_rsQ (ph : Phase) (t : Nat) (s : State) : (enterPhase ph t s).rsQ = s.rsQ := rfl
@[simp] theorem enterPhase_rwQ (ph : Phase) (t : Nat) (s : State) : (enterPhase ph t s).rwQ = s.rwQ := rfl
@[simp] theorem enterPhase_eQ (ph : Phase) (t : Nat) (s : State) : (enterPhase ph t s).eQ = s.eQ := rfl
@[simp] theorem enterPhase_dbQ (ph : Phase) (t : Nat) (s : State) : (enterPhase ph t s).dbQ = s.dbQ := rfl
@[simp] theorem enterPhase_xb (ph : Phase) (t : Nat) (s : State) : (enterPhase ph t s).xb = s.xb := rfl
@[simp] theorem enterPhase_two (ph : Phase) (t : Nat) (s : State) : (enterPhase ph t s).two = s.two := rfl
@[simp] theorem enterPhase_nib (ph : Phase) (t : Nat) (s : State) : (enterPhase ph t s).nib = s.nib := rfl
@[simp] theorem enterPhase_xwait (ph : Phase) (t : Nat) (s : State) : (enterPhase ph t s).xwait = s.xwait := rfl
@[simp] theorem enterPhase_inInit (ph : Phase) (t : Nat) (s : State) : (enterPhase ph t s).inInit = s.inInit := rfl
@[simp] theorem enterPhase_initIdx (ph : Phase) (t : Nat) (s : State) : (enterPhase ph t s).initIdx = s.initIdx := rfl
@[simp] theorem enterPhase_initDoneQ (ph : Phase) (t : Nat) (s : State) : (enterPhase ph t s).initDoneQ = s.initDoneQ := rfl
@[simp] theorem enterPhase_respValidQ (ph : Phase) (t : Nat) (s : State) : (enterPhase ph t s).respValidQ = s.respValidQ := rfl
@[simp] theorem enterPhase_respStatusQ (ph : Phase) (t : Nat) (s : State) : (enterPhase ph t s).respStatusQ = s.respStatusQ := rfl
@[simp] theorem enterPhase_host (ph : Phase) (t : Nat) (s : State) : (enterPhase ph t s).host = s.host := rfl

/-! ### `startTransfer` -/

@[simp] theorem startTransfer_params (rs : Bool) (b : Byte) (tw : Bool) (w : Nat) (s : State) : (startTransfer rs b tw w s).params = s.params := rfl
@[simp] theorem startTransfer_phase (rs : Bool) (b : Byte) (tw : Bool) (w : Nat) (s : State) : (startTransfer rs b tw w s).phase = .AS := rfl
@[simp] theorem startTransfer_cnt (rs : Bool) (b : Byte) (tw : Bool) (w : Nat) (s : State) : (startTransfer rs b tw w s).cnt = s.params.tAs - 1 := rfl
@[simp] theorem startTransfer_oeQ (rs : Bool) (b : Byte) (tw : Bool) (w : Nat) (s : State) : (startTransfer rs b tw w s).oeQ = s.oeQ := rfl
@[simp] theorem startTransfer_rsQ (rs : Bool) (b : Byte) (tw : Bool) (w : Nat) (s : State) : (startTransfer rs b tw w s).rsQ = rs := rfl
@[simp] theorem startTransfer_rwQ (rs : Bool) (b : Byte) (tw : Bool) (w : Nat) (s : State) : (startTransfer rs b tw w s).rwQ = false := rfl
@[simp] theorem startTransfer_eQ (rs : Bool) (b : Byte) (tw : Bool) (w : Nat) (s : State) : (startTransfer rs b tw w s).eQ = s.eQ := rfl
@[simp] theorem startTransfer_dbQ (rs : Bool) (b : Byte) (tw : Bool) (w : Nat) (s : State) : (startTransfer rs b tw w s).dbQ = s.dbQ := rfl
@[simp] theorem startTransfer_xb (rs : Bool) (b : Byte) (tw : Bool) (w : Nat) (s : State) : (startTransfer rs b tw w s).xb = b := rfl
@[simp] theorem startTransfer_two (rs : Bool) (b : Byte) (tw : Bool) (w : Nat) (s : State) : (startTransfer rs b tw w s).two = tw := rfl
@[simp] theorem startTransfer_nib (rs : Bool) (b : Byte) (tw : Bool) (w : Nat) (s : State) : (startTransfer rs b tw w s).nib = false := rfl
@[simp] theorem startTransfer_xwait (rs : Bool) (b : Byte) (tw : Bool) (w : Nat) (s : State) : (startTransfer rs b tw w s).xwait = w := rfl
@[simp] theorem startTransfer_inInit (rs : Bool) (b : Byte) (tw : Bool) (w : Nat) (s : State) : (startTransfer rs b tw w s).inInit = s.inInit := rfl
@[simp] theorem startTransfer_initIdx (rs : Bool) (b : Byte) (tw : Bool) (w : Nat) (s : State) : (startTransfer rs b tw w s).initIdx = s.initIdx := rfl
@[simp] theorem startTransfer_initDoneQ (rs : Bool) (b : Byte) (tw : Bool) (w : Nat) (s : State) : (startTransfer rs b tw w s).initDoneQ = s.initDoneQ := rfl
@[simp] theorem startTransfer_respValidQ (rs : Bool) (b : Byte) (tw : Bool) (w : Nat) (s : State) : (startTransfer rs b tw w s).respValidQ = false := rfl
@[simp] theorem startTransfer_respStatusQ (rs : Bool) (b : Byte) (tw : Bool) (w : Nat) (s : State) : (startTransfer rs b tw w s).respStatusQ = s.respStatusQ := rfl
@[simp] theorem startTransfer_host (rs : Bool) (b : Byte) (tw : Bool) (w : Nat) (s : State) : (startTransfer rs b tw w s).host = s.host := rfl

/-! ### `resetEdge` -/

@[simp] theorem resetEdge_params (s : State) : (resetEdge s).params = s.params := rfl
@[simp] theorem resetEdge_phase (s : State) : (resetEdge s).phase = State.reset.phase := rfl
@[simp] theorem resetEdge_cnt (s : State) : (resetEdge s).cnt = State.reset.cnt := rfl
@[simp] theorem resetEdge_oeQ (s : State) : (resetEdge s).oeQ = State.reset.oeQ := rfl
@[simp] theorem resetEdge_rsQ (s : State) : (resetEdge s).rsQ = State.reset.rsQ := rfl
@[simp] theorem resetEdge_rwQ (s : State) : (resetEdge s).rwQ = State.reset.rwQ := rfl
@[simp] theorem resetEdge_eQ (s : State) : (resetEdge s).eQ = State.reset.eQ := rfl
@[simp] theorem resetEdge_dbQ (s : State) : (resetEdge s).dbQ = State.reset.dbQ := rfl
@[simp] theorem resetEdge_xb (s : State) : (resetEdge s).xb = State.reset.xb := rfl
@[simp] theorem resetEdge_two (s : State) : (resetEdge s).two = State.reset.two := rfl
@[simp] theorem resetEdge_nib (s : State) : (resetEdge s).nib = State.reset.nib := rfl
@[simp] theorem resetEdge_xwait (s : State) : (resetEdge s).xwait = State.reset.xwait := rfl
@[simp] theorem resetEdge_inInit (s : State) : (resetEdge s).inInit = State.reset.inInit := rfl
@[simp] theorem resetEdge_initIdx (s : State) : (resetEdge s).initIdx = State.reset.initIdx := rfl
@[simp] theorem resetEdge_initDoneQ (s : State) : (resetEdge s).initDoneQ = State.reset.initDoneQ := rfl
@[simp] theorem resetEdge_respValidQ (s : State) : (resetEdge s).respValidQ = State.reset.respValidQ := rfl
@[simp] theorem resetEdge_respStatusQ (s : State) : (resetEdge s).respStatusQ = State.reset.respStatusQ := rfl
@[simp] theorem resetEdge_host (s : State) : (resetEdge s).host = s.host := rfl

/-! ### `advanceHost` -/

@[simp] theorem advanceHost_params (s : State) : (advanceHost s).params = s.params := by
  unfold advanceHost; repeat' split
  all_goals rfl
@[simp] theorem advanceHost_phase (s : State) : (advanceHost s).phase = s.phase := by
  unfold advanceHost; repeat' split
  all_goals rfl
@[simp] theorem advanceHost_cnt (s : State) : (advanceHost s).cnt = s.cnt := by
  unfold advanceHost; repeat' split
  all_goals rfl
@[simp] theorem advanceHost_oeQ (s : State) : (advanceHost s).oeQ = s.oeQ := by
  unfold advanceHost; repeat' split
  all_goals rfl
@[simp] theorem advanceHost_rsQ (s : State) : (advanceHost s).rsQ = s.rsQ := by
  unfold advanceHost; repeat' split
  all_goals rfl
@[simp] theorem advanceHost_rwQ (s : State) : (advanceHost s).rwQ = s.rwQ := by
  unfold advanceHost; repeat' split
  all_goals rfl
@[simp] theorem advanceHost_eQ (s : State) : (advanceHost s).eQ = s.eQ := by
  unfold advanceHost; repeat' split
  all_goals rfl
@[simp] theorem advanceHost_dbQ (s : State) : (advanceHost s).dbQ = s.dbQ := by
  unfold advanceHost; repeat' split
  all_goals rfl
@[simp] theorem advanceHost_xb (s : State) : (advanceHost s).xb = s.xb := by
  unfold advanceHost; repeat' split
  all_goals rfl
@[simp] theorem advanceHost_two (s : State) : (advanceHost s).two = s.two := by
  unfold advanceHost; repeat' split
  all_goals rfl
@[simp] theorem advanceHost_nib (s : State) : (advanceHost s).nib = s.nib := by
  unfold advanceHost; repeat' split
  all_goals rfl
@[simp] theorem advanceHost_xwait (s : State) : (advanceHost s).xwait = s.xwait := by
  unfold advanceHost; repeat' split
  all_goals rfl
@[simp] theorem advanceHost_inInit (s : State) : (advanceHost s).inInit = s.inInit := by
  unfold advanceHost; repeat' split
  all_goals rfl
@[simp] theorem advanceHost_initIdx (s : State) : (advanceHost s).initIdx = s.initIdx := by
  unfold advanceHost; repeat' split
  all_goals rfl
@[simp] theorem advanceHost_initDoneQ (s : State) : (advanceHost s).initDoneQ = s.initDoneQ := by
  unfold advanceHost; repeat' split
  all_goals rfl
@[simp] theorem advanceHost_respValidQ (s : State) : (advanceHost s).respValidQ = s.respValidQ := by
  unfold advanceHost; repeat' split
  all_goals rfl
@[simp] theorem advanceHost_respStatusQ (s : State) : (advanceHost s).respStatusQ = s.respStatusQ := by
  unfold advanceHost; repeat' split
  all_goals rfl

end Sys2Proof.Machine
end

