-- ==== Sys2Proof/Laws/Ops.lean ====
section
/-! SUPPORT. What each shared operation can do, said once. -/

namespace Sys2Proof.Machine

/-! ### Parameters -/

/-- A well-formed parameter set passes each check of R6. -/
theorem wf_holds {p : Params} (h : p.wf = true) (c : ParamCheck) : p.holds c = true := by
  have h' := List.all_eq_true.mp h
  exact h' c (by cases c <;> decide)

theorem wf_busWidth {p : Params} (h : p.wf = true) : p.busWidth = 4 ∨ p.busWidth = 8 := by
  simpa [Params.holds] using wf_holds h .chkWidth

theorem waitOk_iff {p : Params} {t : Nat} : p.waitOk t = true ↔ 1 ≤ t ∧ t ≤ 2 ^ p.cntW := by
  simp [Params.waitOk]

theorem wf_waits {p : Params} (h : p.wf = true) :
    p.waitOk p.tPwr = true ∧ p.waitOk p.tAs = true ∧ p.waitOk p.tEh = true ∧ p.waitOk p.tDs = true ∧
      p.waitOk p.tH = true ∧ p.waitOk p.tExecCmd = true ∧ p.waitOk p.tExecData = true ∧
      ∀ e ∈ p.initSeq, p.waitOk e.wait = true := by
  have hw := wf_holds h .chkWaits
  simp only [Params.holds, Bool.and_eq_true, List.all_cons, List.all_nil, List.all_eq_true] at hw
  obtain ⟨⟨-, h1, h2, h3, h4, h5, h6, h7, -⟩, h8⟩ := hw
  exact ⟨h1, h2, h3, h4, h5, h6, h7, h8⟩

theorem wf_rows {p : Params} (h : p.wf = true) : 1 ≤ p.numRows ∧ p.numRows ≤ 4 := by
  simpa [Params.holds] using wf_holds h .chkRows

theorem wf_colMax {p : Params} (h : p.wf = true) : p.colMax ≤ 63 := by
  simpa [Params.holds] using wf_holds h .chkCol

/-- `chk_fit` (R6): an accepted base and column fit in seven bits. -/
theorem wf_fit {p : Params} (h : p.wf = true) {r : Nat} (hr : r < p.numRows) : p.rowBaseAt r + p.colMax ≤ 0x7F := by
  have hf := wf_holds h .chkFit
  have h4 := (wf_rows h).2
  simp only [Params.holds, List.all_cons, List.all_nil, Bool.and_eq_true, decide_eq_true_eq] at hf
  obtain ⟨h0, h1, h2, h3, -⟩ := hf
  match r, hr with
  | 0, hr => exact h0 hr
  | 1, hr => exact h1 hr
  | 2, hr => exact h2 hr
  | 3, hr => exact h3 hr
  | n + 4, hr => omega

/-! ### The host and the sampled inputs -/

theorem advanceHost_eq (s : State) : advanceHost s = { s with host := (advanceHost s).host } := by
  unfold advanceHost
  repeat' split
  all_goals rfl

theorem noReset_cons {a : HostAct} {as : List HostAct} :
    noReset (a :: as) = true ↔ a.resets = false ∧ noReset as = true := by
  simp [noReset]

theorem sampled_rst_of_noReset {s : State} (h : noReset s.host = true) : (sampled s).rst = false := by
  unfold sampled
  split
  · rfl
  · next hh => rw [hh, noReset_cons] at h; exact h.1
  · rfl

theorem noReset_advanceHost {s : State} (h : noReset s.host = true) : noReset (advanceHost s).host = true := by
  unfold advanceHost
  split
  · exact h
  · next hh => rw [hh, noReset_cons] at h; exact h.2
  · next hh =>
    split
    · rw [hh, noReset_cons] at h; exact h.2
    · exact h

/-! ### Instructions -/

/-- The execution wait an instruction asks for (R124, R125, R143, R144, R162, R163). -/
def instrWait (p : Params) : Instr → Nat
  | .data _ => p.tExecData
  | .ibyte _ w => w
  | .inib _ w => w
  | .nop => p.tExecCmd
  | .cmd _ => p.tExecCmd
  | .move _ _ => p.tExecCmd
  | .clear => p.tExecCmd

/-- What an instruction can do: answer at once, `OK` (NOP) or a rejection by value (MOVE), or start a transfer. It has
always a next state. -/
theorem exec_cases (i : Instr) (s : State) :
    (i = .nop ∧ exec i s = .next (respond .ok s)) ∨
    (∃ r c e, i = .move r c ∧ (e = .errRow ∨ e = .errCol) ∧ exec i s = .next (reject e s)) ∨
    (∃ rs b tw, exec i s = .next (startTransfer rs b tw (instrWait s.params i) s) ∧
      (tw = true → s.params.busWidth = 4)) := by
  have hb : ∀ {p : Params}, fourBit p = true → p.busWidth = 4 := fun h => of_decide_eq_true h
  cases i with
  | nop => exact .inl ⟨rfl, rfl⟩
  | cmd b => exact .inr (.inr ⟨_, _, _, rfl, hb⟩)
  | data b => exact .inr (.inr ⟨_, _, _, rfl, hb⟩)
  | move r c =>
    simp only [exec, execMove]
    split
    · exact .inr (.inl ⟨r, c, .errRow, rfl, .inl rfl, rfl⟩)
    · split
      · exact .inr (.inl ⟨r, c, .errCol, rfl, .inr rfl, rfl⟩)
      · exact .inr (.inr ⟨_, _, _, rfl, hb⟩)
  | clear => exact .inr (.inr ⟨_, _, _, rfl, hb⟩)
  | ibyte v w => exact .inr (.inr ⟨_, _, _, rfl, hb⟩)
  | inib v w => exact .inr (.inr ⟨_, _, _, rfl, by simp⟩)

/-- An init entry always starts a transfer, with its own wait and RS low (R143, R144). -/
theorem exec_entry (e : InitEntry) (s : State) :
    ∃ b tw, exec (decodeEntry e) s = .next (startTransfer false b tw e.wait s) ∧
      (tw = true → s.params.busWidth = 4) := by
  cases hk : e.kind with
  | ibyte => exact ⟨e.value, fourBit s.params, by simp [decodeEntry, hk, exec, execIbyte, sendByte], fun h => of_decide_eq_true h⟩
  | inib => exact ⟨_, false, by simp [decodeEntry, hk, exec, execInib]; rfl, by simp⟩

/-! ### The sequencer -/

/-- `InitNext` starts the entry's transfer, or ends the sequence (R142). -/
theorem initNext_cases (i : Nat) (s : State) :
    (∃ e b tw, s.params.initSeq[i]? = some e ∧ (tw = true → s.params.busWidth = 4) ∧
      initNext i s = .next (startTransfer false b tw e.wait { s with initIdx := i, inInit := true })) ∨
    (s.params.initLen ≤ i ∧ initNext i s = .next (endInit s)) := by
  unfold initNext
  split
  · next e he =>
    obtain ⟨b, tw, h, htw⟩ := exec_entry e { s with initIdx := i, inInit := true }
    exact .inl ⟨e, b, tw, he, htw, h⟩
  · next hn => exact .inr ⟨by simpa using hn, rfl⟩

/-- What the request port can do with a word: run an instruction of R76, or reject the word (R122, R126). -/
theorem dispatch_cases (w : Word) (s : State) :
    (∃ i, decodeRequest w = .instr i ∧ dispatch w s = exec i s) ∨
    (∃ e, decodeRequest w = .illegal e ∧ dispatch w s = .next (reject .errIllegal s)) := by
  unfold dispatch
  cases h : decodeRequest w with
  | instr i => exact .inl ⟨i, rfl, rfl⟩
  | illegal e => exact .inr ⟨e, rfl, rfl⟩

/-- The decoder of requests answers no init entry (R76). -/
theorem decodeRequest_cases {w : Word} {i : Instr} (h : decodeRequest w = .instr i) :
    i = .nop ∨ (∃ b, i = .cmd b) ∨ (∃ b, i = .data b) ∨ (∃ r c, i = .move r c) ∨ i = .clear := by
  unfold decodeRequest orReserved at h
  repeat' split at h
  all_goals cases h
  all_goals simp

/-! ### A step -/

/-- A step has a next state exactly for a well-formed parameter set, and it is that of the clock edge (R6, R11). -/
theorem step_eq_clockEdge {s : State} (h : s.params.wf = true) : step s = clockEdge s := by
  simp [step, h]

/-- Everything one clock edge can do. The state the edge's rule starts from is `clearResp (advanceHost s)`: the inputs
are taken and `resp_valid_q` falls (R29). -/
theorem step_cases {s t : State} (h : step s = .next t) :
    s.params.wf = true ∧
    (((sampled s).rst = true ∧ t = resetEdge (advanceHost s)) ∨
     ((sampled s).rst = false ∧
      ((s.phase = .CFG ∧ t = exitCfg (clearResp (advanceHost s))) ∨
       (s.phase = .IDLE ∧ (sampled s).reqValid = false ∧ t = clearResp (advanceHost s)) ∨
       (s.phase = .IDLE ∧ (sampled s).reqValid = true ∧
          dispatch (sampled s).reqWord (clearResp (advanceHost s)) = .next t) ∨
       (s.phase ≠ .CFG ∧ s.phase ≠ .IDLE ∧ s.cnt ≠ 0 ∧ t = countDown (clearResp (advanceHost s))) ∨
       (s.phase = .PWR ∧ s.cnt = 0 ∧ initNext 0 (clearResp (advanceHost s)) = .next t) ∨
       (s.phase = .AS ∧ s.cnt = 0 ∧ t = exitAs (clearResp (advanceHost s))) ∨
       (s.phase = .EH ∧ s.cnt = 0 ∧ t = exitEh (clearResp (advanceHost s))) ∨
       (s.phase = .DS ∧ s.cnt = 0 ∧ t = exitDs (clearResp (advanceHost s))) ∨
       (s.phase = .HOLD ∧ s.cnt = 0 ∧ t = exitHold (clearResp (advanceHost s))) ∨
       (s.phase = .EXEC ∧ s.cnt = 0 ∧ exitExec (clearResp (advanceHost s)) = .next t)))) := by
  unfold step at h
  split at h
  case isFalse => cases h
  case isTrue hwf =>
    refine ⟨hwf, ?_⟩
    unfold clockEdge at h
    split at h
    case isTrue hr => cases h; exact .inl ⟨hr, rfl⟩
    case isFalse hr =>
      refine .inr ⟨by simpa using hr, ?_⟩
      cases hp : s.phase <;>
        simp only [runEdge, timedEdge, idleEdge, exitPhase, advanceHost_phase, clearResp_phase, clearResp_cnt,
          advanceHost_cnt, hp] at h
      case CFG => cases h; simp
      case IDLE =>
        split at h
        · next hv => simp [hv, h]
        · next hv => cases h; simp [hv]
      all_goals
        split at h
        · next hc => first | (cases h; simp [hc]) | simp [hc, h]
        · next hc => cases h; simp [hc]

/-- An edge of a timed phase that is not its last only counts (R26), whatever the host offers. -/
theorem step_count {s : State} (hwf : s.params.wf = true) (hr : (sampled s).rst = false)
    (hp : s.phase ≠ .CFG ∧ s.phase ≠ .IDLE) (hc : s.cnt ≠ 0) :
    step s = .next (countDown (clearResp (advanceHost s))) := by
  rw [step_eq_clockEdge hwf]
  simp only [clockEdge, hr]
  cases hph : s.phase <;> simp_all [runEdge, timedEdge]

/-- The last edge of a timed phase takes its exit action (R26). -/
theorem step_exit {s : State} (hwf : s.params.wf = true) (hr : (sampled s).rst = false)
    (hp : s.phase ≠ .CFG ∧ s.phase ≠ .IDLE) (hc : s.cnt = 0) :
    step s = exitPhase (clearResp (advanceHost s)) := by
  rw [step_eq_clockEdge hwf]
  simp only [clockEdge, hr]
  cases hph : s.phase <;> simp_all [runEdge, timedEdge]

/-- Every instruction has a next state. -/
theorem exec_next (i : Instr) (s : State) : ∃ t, exec i s = .next t := by
  obtain ⟨-, h⟩ | ⟨r, c, e, -, -, h⟩ | ⟨rs, b, tw, h, -⟩ := exec_cases i s
  all_goals exact ⟨_, h⟩

theorem initNext_next (i : Nat) (s : State) : ∃ t, initNext i s = .next t := by
  obtain ⟨e, b, tw, -, -, h⟩ | ⟨-, h⟩ := initNext_cases i s
  all_goals exact ⟨_, h⟩

theorem dispatch_next (w : Word) (s : State) : ∃ t, dispatch w s = .next t := by
  obtain ⟨i, -, h⟩ | ⟨e, -, h⟩ := dispatch_cases w s
  · exact h ▸ exec_next i s
  · exact ⟨_, h⟩

theorem exitPhase_next (s : State) : ∃ t, exitPhase s = .next t := by
  unfold exitPhase
  split
  case h_2 => exact initNext_next 0 s
  case h_8 =>
    unfold exitExec
    split
    · exact initNext_next _ s
    · exact ⟨_, rfl⟩
  all_goals exact ⟨_, rfl⟩

/-! ### What the host's acts and the record of a run do -/

/-- An instruction takes no act of the host. -/
theorem exec_host {i : Instr} {s t : State} (h : exec i s = .next t) : t.host = s.host := by
  rcases exec_cases i s with ⟨-, hx⟩ | ⟨_, _, _, -, -, hx⟩ | ⟨_, _, _, hx, -⟩ <;> rw [hx] at h <;> cases h <;> rfl

/-- `InitNext` takes no act of the host. -/
theorem initNext_host {i : Nat} {s t : State} (h : initNext i s = .next t) : t.host = s.host := by
  rcases initNext_cases i s with ⟨_, _, _, -, -, hx⟩ | ⟨-, hx⟩ <;> rw [hx] at h <;> cases h <;> rfl

/-- A step takes from the host what `advanceHost` says, whatever else it does. -/
theorem step_host {s t : State} (h : step s = .next t) : t.host = (advanceHost s).host := by
  obtain ⟨-, ⟨-, rfl⟩ | ⟨-, h⟩⟩ := step_cases h
  · rfl
  rcases h with ⟨-, rfl⟩ | ⟨-, -, rfl⟩ | ⟨-, -, h⟩ | ⟨-, -, -, rfl⟩ | ⟨-, -, h⟩ | ⟨-, -, rfl⟩ | ⟨-, -, rfl⟩ |
    ⟨-, -, rfl⟩ | ⟨-, -, rfl⟩ | ⟨-, -, h⟩
  any_goals rfl
  · rcases dispatch_cases (sampled s).reqWord (clearResp (advanceHost s)) with ⟨i, -, hx⟩ | ⟨e, -, hx⟩ <;> rw [hx] at h
    · simpa using exec_host h
    · cases h; rfl
  · simpa using initNext_host h
  · unfold exitHold; split <;> rfl
  · unfold exitExec at h
    split at h
    · simpa using initNext_host h
    · cases h; rfl

/-- A run of k + j edges is a run of k edges and then one of j. -/
theorem runEdges_add {u : State} {k : Nat} : ∀ {s : State}, runEdges k s = some u →
    ∀ j, runEdges (k + j) s = runEdges j u := by
  induction k with
  | zero => intro s h j; cases h; rw [Nat.zero_add]
  | succ k ih =>
    intro s h j
    rw [Nat.succ_add]
    simp only [runEdges] at h ⊢
    cases hs : step s with
    | next v => simp only [hs] at h; exact ih h j
    | fault q => cases q
    | refused q => simp [hs] at h

/-- The record of k + j edges is that of k edges and then that of j. -/
theorem logs_add {u : State} {k : Nat} : ∀ {s : State} {a : Nat}, runEdges k s = some u → ∀ j,
    latchLog a (k + j) s = latchLog a k s ++ latchLog (a + k) j u ∧
    responseLog a (k + j) s = responseLog a k s ++ responseLog (a + k) j u := by
  induction k with
  | zero => intro s a h j; cases h; simp [latchLog, responseLog]
  | succ k ih =>
    intro s a h j
    rw [Nat.succ_add]
    simp only [runEdges] at h
    simp only [latchLog, responseLog]
    cases hs : step s with
    | next v =>
      simp only [hs] at h
      obtain ⟨hl, hr⟩ := @ih v (a + 1) h j
      simp only [hl, hr, show a + 1 + k = a + (k + 1) by omega, List.append_assoc, and_self]
    | fault q => cases q
    | refused q => simp [hs] at h

end Sys2Proof.Machine
end

