-- ==== Sys2Proof/Laws/PerInstr.lean ====
section
/-! SUPPORT. The family "for every instruction": the code of each instruction fits its row of spec/opcode_table.json. -/

namespace Sys2Proof.Laws.TablePattern

/-- A row of spec/opcode_table.json: the width of the code in bits, its match and its mask. -/
structure Row where
  width : Nat
  value : Nat
  mask  : Nat
deriving DecidableEq, Repr

/-- The table's row of an instruction. -/
def row : Instr → Row
  | .nop => ⟨16, 0x0000, 0xFFFF⟩
  | .cmd _ => ⟨16, 0x1000, 0xFF00⟩
  | .data _ => ⟨16, 0x2000, 0xFF00⟩
  | .move _ _ => ⟨16, 0x3000, 0xF8C0⟩
  | .clear => ⟨16, 0x4000, 0xFFFF⟩
  | .ibyte _ _ => ⟨9, 0x000, 0x100⟩
  | .inib _ _ => ⟨9, 0x100, 0x1F0⟩

/-- The bits of a code as a number, and their count. -/
def bits : Code → Nat × Nat
  | .request w => (16, w.toNat)
  | .init c _ => (9, c.toNat)

/-- The instruction's code has its row's width, and its bits under the mask are the row's match. -/
def Statement (i : Instr) : Prop :=
  (bits (encode i)).1 = (row i).width ∧ (bits (encode i)).2 &&& (row i).mask = (row i).value

theorem nop : Statement .nop := by unfold Statement; decide

theorem cmd (byte : Byte) : Statement (.cmd byte) := by
  refine ⟨rfl, ?_⟩
  revert byte
  show ∀ byte : BitVec 8, (encodeB 0x1 byte).toNat &&& 0xFF00 = 0x1000
  decide

theorem data (byte : Byte) : Statement (.data byte) := by
  refine ⟨rfl, ?_⟩
  revert byte
  show ∀ byte : BitVec 8, (encodeB 0x2 byte).toNat &&& 0xFF00 = 0x2000
  decide

theorem move (row : BitVec 3) (col : BitVec 6) : Statement (.move row col) := by
  refine ⟨rfl, ?_⟩
  revert row col
  show ∀ (row : BitVec 3) (col : BitVec 6), (encodeM 0x3 row col).toNat &&& 0xF8C0 = 0x3000
  decide

theorem clear : Statement .clear := by unfold Statement; decide

theorem ibyte (value : Byte) (wait : Nat) : Statement (.ibyte value wait) := by
  refine ⟨rfl, ?_⟩
  revert value
  show ∀ value : BitVec 8, (0#1 ++ value : BitVec 9).toNat &&& 0x100 = 0x000
  decide

theorem inib (value : BitVec 4) (wait : Nat) : Statement (.inib value wait) := by
  refine ⟨rfl, ?_⟩
  revert value
  show ∀ value : BitVec 4, (1#1 ++ 0#4 ++ value : BitVec 9).toNat &&& 0x1F0 = 0x100
  decide

end Sys2Proof.Laws.TablePattern
end

