-- ==== Sys2Proof/Tests/Slice0.lean ====
section
/-! SUPPORT. Tests of the model, each expected value taken from the spec, and a witness for the hypotheses of each
statement that has any. -/

namespace Sys2Proof.Tests

open Sys2Proof.Machine Sys2Proof.Statements

/-! ### Small states -/

/-- The next state of an outcome, if it is one. -/
def got (o : Host.Outcome State Fault Refusal) : Option State :=
  match o with
  | .next t => some t
  | .fault _ => none
  | .refused _ => none

/-- An initialised, idle engine, as the programs of section L3 start (95_test_vectors.md). -/
def idle (bw : Nat) (host : List HostAct) : State :=
  { State.reset with
    params := engineParams bw, phase := .IDLE, oeQ := true, initDoneQ := true
    initIdx := (engineParams bw).initLen, dbQ := 0x06, host := host }

/-- A request's transfer of the byte 0x48, at the last cycle of a phase. -/
def busy (bw : Nat) (ph : Phase) (e two nib : Bool) (host : List HostAct) : State :=
  { idle bw host with phase := ph, eQ := e, two := two, nib := nib, rsQ := true, xb := 0x48, xwait := 2 }

/-- The engine at the last cycle of an init entry. -/
def entryEnd (bw idx : Nat) : State :=
  { idle bw [] with phase := .EXEC, inInit := true, initDoneQ := false, initIdx := idx, xwait := 2 }

/-- The engine at the last cycle of the power-on wait. -/
def pwrEnd (p : Params) : State :=
  { State.reset with params := p, phase := .PWR, oeQ := true }

/-! ### Parameter sets: one that each check refuses (R6) -/

theorem test_defaults_wf : (engineParams 4).wf = true ∧ (engineParams 8).wf = true := by decide
theorem test_chkWidth_refuses : ParamCheck.chkWidth ∈ (engineParams 6).failed := by decide
theorem test_chkWaits_refuses_zero : { engineParams 4 with tAs := 0 }.failed = [.chkWaits] := by decide
theorem test_chkWaits_refuses_long : { engineParams 4 with tH := 3 }.failed = [.chkWaits] := by decide
theorem test_chkWaits_refuses_entry : { engineParams 8 with initSeq := [⟨.ibyte, 0x38, 0⟩] }.failed = [.chkWaits] := by
  decide
theorem test_chkRows_refuses : { engineParams 4 with numRows := 0 }.failed = [.chkRows] := by decide
theorem test_chkBase_refuses : { engineParams 4 with numRows := 3, rowBase3 := 0x80 }.failed = [.chkBase] := by decide
theorem test_chkCol_refuses :
    { engineParams 4 with colMax := 64, rowBase0 := 0, rowBase1 := 0, rowBase2 := 0, rowBase3 := 0 }.failed
      = [.chkCol] := by decide
theorem test_chkFit_refuses : { engineParams 4 with rowBase3 := 0x59 }.failed = [.chkFit] := by decide
theorem test_chkInit_refuses_value : { engineParams 4 with initSeq := [⟨.inib, 0x10, 1⟩] }.failed = [.chkInit] := by
  decide
theorem test_chkInit_refuses_bus : { engineParams 8 with initSeq := [⟨.inib, 0x3, 1⟩] }.failed = [.chkInit] := by decide
theorem test_instr_wf_refuses :
    Instr.wf (engineParams 8) (.inib 3 1) = false ∧ Instr.wf (engineParams 4) (.ibyte 0x38 0) = false ∧
    Instr.wf (engineParams 4) (.inib 3 3) = false ∧ Instr.wf (engineParams 4) (.inib 3 2) = true := by decide

/-! ### Decoding: words written out from R72 to R78 and R80, and the table of section L2.1 -/

theorem test_decode_nop : decodeRequest 0b0000000000000000 = .instr .nop := by decide
theorem test_decode_cmd : decodeRequest 0b0001000000111000 = .instr (.cmd 0x38) := by decide
theorem test_decode_data : decodeRequest 0b0010000001001000 = .instr (.data 0x48) := by decide
theorem test_decode_move : decodeRequest 0b0011001000000101 = .instr (.move 2 5) := by decide
theorem test_decode_move_out_of_range : decodeRequest 0x373F = .instr (.move 7 63) := by decide
theorem test_decode_clear : decodeRequest 0b0100000000000000 = .instr .clear := by decide
theorem test_decode_ibyte : decodeInit 0b000111000 2 = .instr (.ibyte 0x38 2) := by decide
theorem test_decode_inib : decodeInit 0b100000011 2 = .instr (.inib 0x3 2) := by decide
theorem test_decode_reserved :
    [0x0001, 0x0800, 0x1100, 0x1F38, 0x2200, 0x3800, 0x3040, 0x3080, 0x38FF, 0x4001].map decodeRequest
      = List.replicate 10 (.illegal .reservedBits) := by decide
theorem test_decode_opcode :
    [0x5000, 0x8000, 0xFFFF].map decodeRequest = List.replicate 3 (.illegal .illegalOpcode) := by decide
theorem test_encode_words :
    [Instr.nop, .cmd 0xFF, .data 0xA5, .move 3 39, .clear].map encode
      = [.request 0x0000, .request 0x10FF, .request 0x20A5, .request 0x3327, .request 0x4000] := by decide
theorem test_encode_entries :
    encode (.ibyte 0x28 1) = .init 0x028 1 ∧ encode (.inib 0x2 1) = .init 0x102 1 := by decide
theorem test_table_words :
    decodeTableWord 16 0x3205 = some (.move 2 5) ∧ decodeTableWord 16 0x1100 = none ∧
    decodeTableWord 9 0x103 = some (.inib 3 1) ∧ decodeTableWord 16 0x038 = some (.ibyte 0x38 1) := by decide

/-! ### One step each -/

/-- R123. -/
theorem test_nop_step :
    (got (step (idle 4 [.offer 0x0000]))).map (fun t => (t.phase, t.respValidQ, t.respStatusQ, t.host))
      = some (.IDLE, true, .ok, []) := by decide

/-- R124. -/
theorem test_cmd_step :
    (got (step (idle 8 [.offer 0x1038]))).map (fun t => (t.phase, t.rsQ, t.xb, t.two, t.xwait))
      = some (.AS, false, 0x38, false, 2) := by decide

/-- Section L2.5, cycle 0. -/
theorem test_data_step :
    (got (step (idle 4 [.offer 0x2048]))).map (fun t => (t.phase, t.cnt, t.rsQ, t.eQ, t.dbQ, t.two))
      = some (.AS, 0, true, false, 0x06, true) := by decide

/-- Example of R162. -/
theorem test_move_step :
    (got (step (idle 8 [.offer 0x3205]))).map (fun t => (t.phase, t.rsQ, t.xb)) = some (.AS, false, 0x95) := by decide

/-- R203: the row is reported before the column. -/
theorem test_move_rejected_step :
    (got (step (idle 8 [.offer 0x3532]))).map (fun t => (t.phase, t.respValidQ, t.respStatusQ))
      = some (.IDLE, true, .errRow) := by decide

/-- R163. -/
theorem test_clear_step :
    (got (step (idle 4 [.offer 0x4000]))).map (fun t => (t.phase, t.rsQ, t.xb, t.two)) = some (.AS, false, 0x01, true) := by
  decide

/-- R126. -/
theorem test_illegal_step :
    (got (step (idle 8 [.offer 0x1100]))).map (fun t => (t.phase, t.respValidQ, t.respStatusQ))
      = some (.IDLE, true, .errIllegal) := by decide

/-- R142, R144: the first entry of the 4-bit default is INIB 0x3. -/
theorem test_inib_step :
    (got (step (pwrEnd (engineParams 4)))).map (fun t => (t.phase, t.inInit, t.initIdx, t.xb, t.two))
      = some (.AS, true, 0, 0x03, false) := by decide

/-- R142, R143: after entry 3 the default of R147 sends IBYTE 0x28, as two pulses. -/
theorem test_ibyte_step :
    (got (step (entryEnd 4 3))).map (fun t => (t.phase, t.inInit, t.initIdx, t.xb, t.two))
      = some (.AS, true, 4, 0x28, true) := by decide

/-- Section L2.5, cycles 2, 3 and 6: the nibbles placed and latched. -/
theorem test_high_nibble_placed :
    (got (step (busy 4 .EH true true false []))).map (fun t => (t.phase, t.dbQ)) = some (.DS, 0x04) := by decide
theorem test_low_nibble_placed :
    (got (step (busy 4 .EH true true true []))).map (fun t => (t.phase, t.dbQ)) = some (.DS, 0x08) := by decide
theorem test_latch :
    (got (step (busy 8 .DS true false false []))).bind (latchEvent (busy 8 .DS true false false []))
      = some ⟨true, false, 0x06⟩ := by decide

/-- Section L2.6. -/
theorem test_reset_in_pulse :
    (got (step (busy 4 .EH true true false [.drive true true 0x2048]))).map ports
      = some ⟨none, none, none, none, false, false, 0, false⟩ := by decide

/-- A word of the opcode table runs as the very next step. -/
theorem test_fetch_word_runs :
    (got (step (State.reset.withFetchWord 16 0x3205))).map (fun t => (t.phase, t.xb)) = some (.AS, 0x95) ∧
    (got (step (State.reset.withFetchWord 9 0x102))).map (fun t => (t.phase, t.xb, t.two)) = some (.AS, 0x02, false) := by
  decide

/-! ### The host's text layer (sections L1 and L2.8) -/

theorem test_string : stringWords [0x48, 0x69] = [0x2048, 0x2069] ∧ stringWords [0x61, 0x00, 0x62] = [0x2061] := by decide
theorem test_int_negative : stringWords (intText (-42)) = [0x202D, 0x2034, 0x2032] := by decide
theorem test_int_min :
    stringWords (intText 0x80000000) =
      [0x202D, 0x2032, 0x2031, 0x2034, 0x2037, 0x2034, 0x2038, 0x2033, 0x2036, 0x2034, 0x2038] := by decide
theorem test_strat :
    Pseudo.expand (engineParams 4) (.strat 1 3 [0x48, 0x69]) = some [0x3103, 0x2048, 0x2069] ∧
    Pseudo.expand (engineParams 4) (.strat 4 0 [0x78]) = none := by decide
theorem test_assemble_move : assembleText (engineParams 4) ['m', 'o', 'v', 'e', ' ', '4', ',', '0'] = some [0x3400] := by
  decide
theorem test_assemble_char :
    assembleText (engineParams 4) ['d', 'a', 't', 'a', ' ', '\'', ';', '\'', ' ', ';', 'x'] = some [0x203B] := by decide
/-- Section L2.8 for `\0`, and R181: a backslash that no 0 follows stands for 0x5C. -/
theorem test_text_bytes :
    textBytes [0x61, 0x5C, 0x30, 0x62] = [0x61, 0x00, 0x62] ∧ textBytes [0x5C, 0x62, 0x5C] = [0x5C, 0x62, 0x5C] := by decide
theorem test_assemble_text :
    assembleText (engineParams 4) ['s', 't', 'r', 'i', 'n', 'g', ' ', '"', '\\', 'b', '"'] = some [0x205C, 0x2062] := by rfl
theorem test_assemble_numbers :
    assembleText (engineParams 4) ['c', 'm', 'd', ' ', '0', 'x', '3', '8'] = some [0x1038] ∧
    assembleText (engineParams 4) ['c', 'm', 'd', ' ', '0', 'b', '1', '0', '1'] = some [0x1005] ∧
    assembleText (engineParams 4) ['c', 'm', 'd', ' ', '2', '5', '6'] = none := by decide

/-! ### Witnesses: states and operands that meet the hypotheses of the statements -/

/-- An idle engine meets the invariant, on both bus widths. -/
theorem idle_inv (bw : Nat) (h : bw = 4 ∨ bw = 8) (host : List HostAct) : EngineInv (idle bw host) := by
  obtain rfl | rfl := h
  all_goals
    refine ⟨?_, rfl, ?_, ?_, ?_, ?_, ?_, ?_, ?_, ?_, ?_⟩
    · constructor <;> simp [idle, State.reset]
    all_goals simp [idle, State.reset, engineParams, Phase.inTransfer]

/-- The engine at the end of an init entry meets the invariant. -/
theorem entryEnd_inv : EngineInv (entryEnd 4 7) := by
  constructor
  · constructor <;> decide
  all_goals decide

/-- The engine at the end of a phase of a transfer meets the invariant: before E rises, and at the latch. -/
theorem busy_inv : EngineInv (busy 4 .AS false true false []) ∧ EngineInv (busy 4 .DS true true true []) := by
  constructor
  all_goals
    constructor
    · constructor <;> decide
    all_goals decide

theorem witness_EncodeOfDecodeIsTheCode :
    decode (.request 0x373F) = .instr (.move 7 63) ∧ decode (.init 0x10F 2) = .instr (.inib 0xF 2) := by decide
theorem witness_OperandsAreUnsignedFields :
    decodeRequest 0x10FF = .instr (.cmd 0xFF) ∧ decodeRequest 0x20FF = .instr (.data 0xFF) ∧
    decodeRequest 0x373F = .instr (.move 7 63) := by decide
theorem witness_ResetEdgeWritesEveryRegister :
    (busy 4 .EH true true false [.drive true true 0]).params.wf = true ∧
    (sampled (busy 4 .EH true true false [.drive true true 0])).rst = true := by decide
theorem witness_ResetEdgeIsNoLatchAndNoResponse :
    (sampled (busy 4 .DS true true false [.drive true false 0])).rst = true ∧
    (got (step (busy 4 .DS true true false [.drive true false 0]))).isSome = true := by decide
theorem witness_StepsExactlyForWellFormedParameters : (idle 6 []).params.wf = false ∧ (idle 8 []).params.wf = true := by
  decide
theorem witness_NoStepChangesAParameter : (got (step (idle 4 [.offer 0x2048]))).isSome = true := by decide
theorem witness_MoveInRangeSendsTheSetAddressCommand :
    (idle 4 []).params.wf = true ∧ (3#3).toNat < (idle 4 []).params.numRows ∧ (39#6).toNat ≤ (idle 4 []).params.colMax := by
  decide
theorem witness_MoveOutOfRangeIsRejected :
    (idle 4 []).params.numRows ≤ (4#3).toNat ∧
    ((3#3).toNat < (idle 4 []).params.numRows ∧ (idle 4 []).params.colMax < (40#6).toNat) := by decide
theorem witness_StepRunsTheOfferedRequest :
    Runs (idle 4 [.offer 0x10FF]) ∧ (idle 4 [.offer 0x10FF]).phase = .IDLE ∧
    (sampled (idle 4 [.offer 0x10FF])).reqValid = true ∧
    decodeRequest (sampled (idle 4 [.offer 0x10FF])).reqWord = .instr (.cmd 0xFF) := by unfold Runs; decide
theorem witness_StepRejectsAnIllegalWord :
    Runs (idle 4 [.drive false true 0x5000]) ∧ (idle 4 [.drive false true 0x5000]).phase = .IDLE ∧
    (sampled (idle 4 [.drive false true 0x5000])).reqValid = true ∧
    decodeRequest (sampled (idle 4 [.drive false true 0x5000])).reqWord = .illegal .illegalOpcode := by unfold Runs; decide
theorem witness_IdleEdgeWithoutARequestHolds :
    Runs (idle 8 []) ∧ (idle 8 []).phase = .IDLE ∧ (sampled (idle 8 [])).reqValid = false := by unfold Runs; decide
theorem witness_StepRunsTheNextInitEntry_first :
    Runs (pwrEnd (engineParams 4)) ∧ (pwrEnd (engineParams 4)).cnt = 0 ∧ (pwrEnd (engineParams 4)).phase = .PWR ∧
    (pwrEnd (engineParams 4)).params.initSeq[0]? = some ⟨.inib, 0x3, 2⟩ := by unfold Runs; decide
theorem witness_StepRunsTheNextInitEntry_last :
    Runs (entryEnd 8 2) ∧ (entryEnd 8 2).cnt = 0 ∧ (entryEnd 8 2).phase = .EXEC ∧ (entryEnd 8 2).inInit = true ∧
    (entryEnd 8 2).params.initSeq[2 + 1]? = some ⟨.ibyte, 0x06, 2⟩ := by unfold Runs; decide
theorem witness_StepEndsTheInitSequence_empty :
    Runs (pwrEnd { engineParams 8 with initSeq := [] }) ∧ (pwrEnd { engineParams 8 with initSeq := [] }).cnt = 0 ∧
    (pwrEnd { engineParams 8 with initSeq := [] }).phase = .PWR ∧
    (pwrEnd { engineParams 8 with initSeq := [] }).params.initSeq.length ≤ 0 := by unfold Runs; decide
theorem witness_StepEndsTheInitSequence_last :
    Runs (entryEnd 8 3) ∧ (entryEnd 8 3).cnt = 0 ∧ (entryEnd 8 3).phase = .EXEC ∧ (entryEnd 8 3).inInit = true ∧
    (entryEnd 8 3).params.initSeq.length ≤ 3 + 1 := by unfold Runs; decide
theorem witness_TimedPhaseCountsDown :
    Runs { idle 4 [] with phase := .EXEC, cnt := 1 } ∧ 0 < ({ idle 4 [] with phase := .EXEC, cnt := 1 } : State).cnt := by
  unfold Runs; decide
theorem witness_ConfigurationLastsOneCycle : Runs State.reset ∧ State.reset.phase = .CFG := by unfold Runs; decide
theorem witness_AddressSetupEndsWithERising :
    Runs (busy 4 .AS false true false []) ∧ (busy 4 .AS false true false []).cnt = 0 := by unfold Runs; decide
theorem witness_DataIsPlacedAtTheEhExit_byte :
    Runs (busy 8 .EH true false false []) ∧ (busy 8 .EH true false false []).cnt = 0 ∧
    (busy 8 .EH true false false []).params.busWidth = 8 := by unfold Runs; decide
theorem witness_DataIsPlacedAtTheEhExit_high :
    Runs (busy 4 .EH true true false []) ∧ (busy 4 .EH true true false []).cnt = 0 ∧
    (busy 4 .EH true true false []).params.busWidth = 4 := by unfold Runs; decide
theorem witness_DataIsPlacedAtTheEhExit_low :
    Runs (busy 4 .EH true true true []) ∧ Runs (busy 4 .EH true false false []) ∧
    (busy 4 .EH true false false []).cnt = 0 := by unfold Runs; decide
theorem witness_DataSetupEndsWithTheLatch :
    Runs (busy 4 .DS true true true []) ∧ (busy 4 .DS true true true []).cnt = 0 ∧
    (busy 4 .DS true true true []).eQ = true ∧ (busy 4 .DS true true true []).oeQ = true := by unfold Runs; decide
theorem witness_HoldEndsWithTheSecondPulseOrTheWait :
    Runs (busy 4 .HOLD false true false []) ∧ Runs (busy 4 .HOLD false true true []) ∧
    Runs (busy 8 .HOLD false false false []) ∧ (busy 8 .HOLD false false false []).cnt = 0 := by unfold Runs; decide
theorem witness_RequestEndsWithOk :
    Runs (busy 4 .EXEC false true true []) ∧ (busy 4 .EXEC false true true []).cnt = 0 ∧
    (busy 4 .EXEC false true true []).inInit = false := by unfold Runs; decide
theorem witness_OfferStaysUntilAccepted :
    (got (step (idle 4 [.offer 0x2048]))).isSome = true ∧
    (got (step (busy 4 .AS false true false [.offer 0x2048]))).isSome = true := by decide
theorem witness_BusyEngineIgnoresTheRequestPort :
    (busy 4 .AS false true false []).phase ≠ .IDLE ∧
    (sampled { busy 4 .AS false true false [] with host := [.offer 0x4000] }).rst
      = (sampled (busy 4 .AS false true false [])).rst ∧
    (got (step (busy 4 .AS false true false []))).isSome = true := by decide
theorem witness_ResponseIsGivenExactlyAtCompletion :
    (sampled (busy 4 .EXEC false true true [])).rst = false ∧
    (got (step (busy 4 .EXEC false true true []))).map State.respValidQ = some true ∧
    (got (step (idle 4 []))).map State.respValidQ = some false := by decide
theorem witness_StatusIsKeptUntilTheNextResponse :
    (sampled (idle 4 [.offer 0x4000])).rst = false ∧
    (got (step (idle 4 [.offer 0x4000]))).map State.respValidQ = some false := by decide
theorem witness_InitDoneRisesOnceAndStays :
    (idle 4 []).initDoneQ = true ∧ (got (step (idle 4 []))).isSome = true ∧
    (entryEnd 4 7).initDoneQ = false ∧ (got (step (entryEnd 4 7))).map State.initDoneQ = some true := by decide
theorem witness_InitIndexMovesForwardByOne :
    EngineInv (entryEnd 4 7) ∧ (sampled (entryEnd 4 7)).rst = false ∧
    (got (step (entryEnd 4 7))).map State.initIdx = some 8 := ⟨entryEnd_inv, by decide, by decide⟩
theorem witness_BootPhasesDoNotReturn :
    (sampled (idle 4 [])).rst = false ∧ (got (step (idle 4 []))).isSome = true ∧ (idle 4 []).phase ≠ .CFG ∧
    (idle 4 []).phase ≠ .PWR := by decide
theorem witness_AnsweringAtOnceChangesNoPin :
    (sampled (idle 4 [.offer 0x3400])).rst = false ∧
    (got (step (idle 4 [.offer 0x3400]))).map State.phase = some .IDLE := by decide
theorem witness_AtMostOneKindOfPinChangesAtAnEdge_rs :
    EngineInv (idle 4 [.offer 0x2048]) ∧ (sampled (idle 4 [.offer 0x2048])).rst = false ∧
    (got (step (idle 4 [.offer 0x2048]))).map State.rsQ = some true ∧ (idle 4 [.offer 0x2048]).rsQ = false :=
  ⟨idle_inv 4 (.inl rfl) _, by decide, by decide, by decide⟩
theorem witness_AtMostOneKindOfPinChangesAtAnEdge_e :
    EngineInv (busy 4 .AS false true false []) ∧ (sampled (busy 4 .AS false true false [])).rst = false ∧
    (got (step (busy 4 .AS false true false []))).map State.eQ = some true := ⟨busy_inv.1, by decide, by decide⟩
theorem witness_LatchesHappenExactlyAtDsExits :
    EngineInv (busy 4 .DS true true true []) ∧
    (got (step (busy 4 .DS true true true []))).bind (latchEvent (busy 4 .DS true true true []))
      = some ⟨true, false, 0x06⟩ := ⟨busy_inv.2, by decide⟩
theorem witness_EngineInvariantHoldsAfterReset : (engineParams 8).wf = true := by decide
theorem witness_EveryStepKeepsTheEngineInvariant :
    EngineInv (idle 8 [.offer 0x3327]) ∧ (got (step (idle 8 [.offer 0x3327]))).isSome = true :=
  ⟨idle_inv 8 (.inr rfl) _, by decide⟩
theorem witness_RuleInvariantsHoldInEveryReachableCycle : Reachable (afterReset (engineParams 8) [.offer 0]) :=
  .reset _ _
theorem witness_AcceptedRequestRunsToItsResponse :
    EngineInv (idle 4 [.offer 0x3327, .offer 0x5000]) ∧ (idle 4 [.offer 0x3327, .offer 0x5000]).phase = .IDLE ∧
    (sampled (idle 4 [.offer 0x3327, .offer 0x5000])).reqValid = true ∧
    noReset (idle 4 [.offer 0x3327, .offer 0x5000]).host = true ∧
    decodeRequest (sampled (idle 4 [.offer 0x3327, .offer 0x5000])).reqWord = .instr (.move 3 39) ∧
    sent (idle 4 [.offer 0x3327, .offer 0x5000]).params (.move 3 39) = some (false, 0xF7, 2) :=
  ⟨idle_inv 4 (.inl rfl) _, by decide, by decide, by decide, by decide, by decide⟩
theorem witness_OfferedRequestsAreTakenInOrderWithOneResponseEach :
    EngineInv (idle 4 (offers [0x2048, 0x5000, 0x3532])) ∧ (idle 4 (offers [0x2048, 0x5000, 0x3532])).phase = .IDLE ∧
    (idle 4 (offers [0x2048, 0x5000, 0x3532])).host = offers [0x2048, 0x5000, 0x3532] ∧
    requestsResponses (engineParams 4) 0 [0x2048, 0x5000, 0x3532] = [(9, .ok), (10, .errIllegal), (11, .errRow)] :=
  ⟨idle_inv 4 (.inl rfl) _, rfl, rfl, by decide⟩
theorem witness_InitSequenceRunsEveryEntryInOrder :
    (engineParams 4).wf = true ∧ noReset [.offer 0x0000, .drive false false 0x1038] = true := by decide
theorem witness_AcceptedPairsMapToBasePlusColumn :
    (engineParams 4).wf = true ∧ (3#3).toNat < (engineParams 4).numRows ∧ (39#6).toNat ≤ (engineParams 4).colMax := by
  decide
theorem witness_HardwareRowTableMapAndAliases :
    ((engineParams 8).rowBase0 = 0x00 ∧ (engineParams 8).rowBase1 = 0x40 ∧ (engineParams 8).rowBase2 = 0x10 ∧
      (engineParams 8).rowBase3 = 0x50 ∧ (engineParams 8).numRows = 4 ∧ (engineParams 8).colMax = 39) ∧
    (39#6).toNat ≤ 39 ∧ 16 ≤ (16#6).toNat ∧ (16#6).toNat ≤ 39 ∧ (idle 8 []).params = engineParams 8 := by decide
theorem witness_StringSendsTheBytesBeforeTheTerminator : ∀ b ∈ [0x48#8, 0xFF#8], b ≠ 0x00#8 := by decide
theorem witness_StratMovesThenSendsItsText :
    (engineParams 4).wf = true ∧ (3 < (engineParams 4).numRows ∧ 39 ≤ (engineParams 4).colMax) ∧
    (engineParams 4).numRows ≤ 4 ∧ (engineParams 4).colMax < 40 := by decide
theorem witness_AssembledLinesDecodeToTheirRequests :
    255 ≤ 255 ∧ 255 < 256 ∧ 7 ≤ 7 ∧ 63 ≤ 63 ∧ 7 < 8 ∧ 63 < 64 ∧ 0xFFFF ≤ 0xFFFF ∧ 0xFFFF < 0x10000 := by decide

theorem witness_TextCharactersStandForTheirCodes :
    (∀ c ∈ ['a', '\\', '\'', ';', Char.ofNat 0x7F], c.toNat ≤ 0x7F ∧ c.toNat ≠ 0x22) ∧
    0x5C#8 ∉ [0x61#8, 0x30#8] ∧ [0x62#8].head? ≠ some 0x30 := by simp

/-- The minima of G8 at 5 V, with the waits of G4 for the two nibbles, on the default 4-bit sequence. -/
def typicalMinima : Minima :=
  { pwr := 15000000, addr := 40, enable := 230, data := 80, hold := 10, execCmd := 1520000, execData := 37000
    nib1 := 4100000, nib2 := 100000
    entries := [4100000, 100000, 1520000, 1520000, 1520000, 1520000, 1520000, 1520000] }

theorem witness_DefaultInitSequenceMeetsItsMinima : WaitsMeet (engineParams 4) initDefaults typicalMinima 100 := by
  unfold WaitsMeet; decide
/-- R235: 230 ns at 10 MHz are 2.3 cycles, and 100 ns are one. -/
theorem test_cyclesFor_rounds_up : cyclesFor 230 10000000 = 3 ∧ cyclesFor 100 10000000 = 1 ∧ cyclesFor 0 1 = 0 := by
  decide
theorem test_timing_met : MeetsTiming (engineParams 4) initDefaults typicalMinima 100 := by
  unfold MeetsTiming WaitsMeet EntriesMeet; decide
/-- D13: a first nibble wait of 4.1 ms is five cycles at 1 kHz, and the entry waits two. -/
theorem test_entry_wait_too_short : ¬EntriesMeet (engineParams 4).initSeq typicalMinima.entries 1000 := by
  unfold EntriesMeet; decide

end Sys2Proof.Tests
end

section
/-! PROOF. The scope of the engine (00_scope.md): a step has a next state exactly for a well-formed parameter set (R6),
and no step changes a parameter (R5). -/

namespace Sys2Proof.Machine

/-! ### The failing checks -/

theorem mem_failed_iff {p : Params} {c : ParamCheck} : c ∈ p.failed ↔ p.holds c = false := by
  have hall : c ∈ ParamCheck.all := by cases c <;> decide
  simp [Params.failed, hall]

/-- An ill-formed parameter set fails a check. -/
theorem failed_ne_nil {p : Params} (h : p.wf = false) : p.failed ≠ [] := by
  obtain ⟨c, -, hc⟩ := List.all_eq_false.mp h
  exact List.ne_nil_of_mem (mem_failed_iff.mpr (Bool.eq_false_iff.mpr hc))

/-! ### Every clock edge has a next state -/

theorem idleEdge_next (valid : Bool) (w : Word) (s : State) : ∃ t, idleEdge valid w s = .next t := by
  unfold idleEdge
  split
  · exact dispatch_next w s
  · exact ⟨s, rfl⟩

theorem timedEdge_next (s : State) : ∃ t, timedEdge s = .next t := by
  unfold timedEdge
  split
  · exact exitPhase_next s
  · exact ⟨countDown s, rfl⟩

theorem runEdge_next (inp : Inputs) (s : State) : ∃ t, runEdge inp s = .next t := by
  unfold runEdge
  split
  · exact exitPhase_next (clearResp s)
  · exact idleEdge_next inp.reqValid inp.reqWord (clearResp s)
  all_goals exact timedEdge_next (clearResp s)

theorem clockEdge_next (s : State) : ∃ t, clockEdge s = .next t := by
  unfold clockEdge
  split
  · exact ⟨resetEdge (advanceHost s), rfl⟩
  · exact runEdge_next (sampled s) (advanceHost s)

theorem step_next {s : State} (h : s.params.wf = true) : ∃ t, step s = .next t :=
  step_eq_clockEdge h ▸ clockEdge_next s

theorem step_refused {s : State} (h : s.params.wf = false) :
    step s = .refused (.illFormedParams s.params.failed) := by
  simp [step, h]

/-- Settles O9: every clock edge has a next state, and `step` guards the edge by `Params.wf` alone. -/
theorem stepsExactlyForWellFormedParameters : Obligations.StepsExactlyForWellFormedParameters := by
  intro s
  refine ⟨⟨fun ⟨_, h⟩ => (step_cases h).1, step_next⟩, fun h => ?_⟩
  exact ⟨s.params.failed, step_refused h, failed_ne_nil h, fun _ => mem_failed_iff⟩

/-! ### What no edge changes: the parameters -/

theorem exec_params {i : Instr} {s t : State} (h : exec i s = .next t) : t.params = s.params := by
  obtain ⟨-, hx⟩ | ⟨_, _, _, -, -, hx⟩ | ⟨_, _, _, hx, -⟩ := exec_cases i s
  all_goals rw [hx] at h; cases h; rfl

theorem dispatch_params {w : Word} {s t : State} (h : dispatch w s = .next t) : t.params = s.params := by
  obtain ⟨i, -, hx⟩ | ⟨_, -, hx⟩ := dispatch_cases w s <;> rw [hx] at h
  · exact exec_params h
  · cases h; rfl

theorem initNext_params {i : Nat} {s t : State} (h : initNext i s = .next t) : t.params = s.params := by
  obtain ⟨_, _, _, -, -, hx⟩ | ⟨-, hx⟩ := initNext_cases i s
  all_goals rw [hx] at h; cases h; rfl

@[simp] theorem exitHold_params (s : State) : (exitHold s).params = s.params := by
  unfold exitHold
  split <;> rfl

theorem exitExec_params {s t : State} (h : exitExec s = .next t) : t.params = s.params := by
  unfold exitExec at h
  split at h
  · exact initNext_params h
  · cases h; rfl

/-- A step writes no parameter: not at a reset edge, and not at an edge of any phase. -/
theorem step_params {s t : State} (h : step s = .next t) : t.params = s.params := by
  have base : (clearResp (advanceHost s)).params = s.params := by simp
  obtain ⟨-, ⟨-, rfl⟩ | ⟨-, hrun⟩⟩ := step_cases h
  · simp
  obtain ⟨-, rfl⟩ | ⟨-, -, rfl⟩ | ⟨-, -, hdispatch⟩ | ⟨-, -, -, rfl⟩ | ⟨-, -, hinit⟩ | ⟨-, -, rfl⟩ |
    ⟨-, -, rfl⟩ | ⟨-, -, rfl⟩ | ⟨-, -, rfl⟩ | ⟨-, -, hexec⟩ := hrun
  · exact base
  · exact base
  · exact (dispatch_params hdispatch).trans base
  · exact base
  · exact (initNext_params hinit).trans base
  · exact base
  · exact base
  · exact base
  · exact (exitHold_params _).trans base
  · exact (exitExec_params hexec).trans base

/-- Settles O10, by the cases of a clock edge. -/
theorem noStepChangesAParameter : Obligations.NoStepChangesAParameter :=
  fun _ _ => step_params

end Sys2Proof.Machine
end

section
/-! SUPPORT. The clock edge without reset, case by case: what an edge does to the registers, with the shared operations
of Laws/Ops.lean resolved down to single register updates. -/

namespace Sys2Proof.Machine

open Sys2Proof.Statements

/-! ### The state an edge starts from -/

theorem clearResp_advanceHost (s : State) : clearResp (advanceHost s) = taken s := by
  rw [advanceHost_eq]; rfl

@[simp] theorem taken_params (s : State) : (taken s).params = s.params := rfl
@[simp] theorem taken_phase (s : State) : (taken s).phase = s.phase := rfl
@[simp] theorem taken_cnt (s : State) : (taken s).cnt = s.cnt := rfl
@[simp] theorem taken_oeQ (s : State) : (taken s).oeQ = s.oeQ := rfl
@[simp] theorem taken_rsQ (s : State) : (taken s).rsQ = s.rsQ := rfl
@[simp] theorem taken_rwQ (s : State) : (taken s).rwQ = s.rwQ := rfl
@[simp] theorem taken_eQ (s : State) : (taken s).eQ = s.eQ := rfl
@[simp] theorem taken_dbQ (s : State) : (taken s).dbQ = s.dbQ := rfl
@[simp] theorem taken_xb (s : State) : (taken s).xb = s.xb := rfl
@[simp] theorem taken_two (s : State) : (taken s).two = s.two := rfl
@[simp] theorem taken_nib (s : State) : (taken s).nib = s.nib := rfl
@[simp] theorem taken_xwait (s : State) : (taken s).xwait = s.xwait := rfl
@[simp] theorem taken_inInit (s : State) : (taken s).inInit = s.inInit := rfl
@[simp] theorem taken_initIdx (s : State) : (taken s).initIdx = s.initIdx := rfl
@[simp] theorem taken_initDoneQ (s : State) : (taken s).initDoneQ = s.initDoneQ := rfl
@[simp] theorem taken_respValidQ (s : State) : (taken s).respValidQ = false := rfl
@[simp] theorem taken_respStatusQ (s : State) : (taken s).respStatusQ = s.respStatusQ := rfl
@[simp] theorem taken_host (s : State) : (taken s).host = (advanceHost s).host := rfl

/-! ### HOLD exit: of the flags and of `init_idx` it writes none (R105) -/

@[simp] theorem exitHold_respValidQ (s : State) : (exitHold s).respValidQ = s.respValidQ := by
  unfold exitHold
  split <;> rfl
@[simp] theorem exitHold_respStatusQ (s : State) : (exitHold s).respStatusQ = s.respStatusQ := by
  unfold exitHold
  split <;> rfl
@[simp] theorem exitHold_initDoneQ (s : State) : (exitHold s).initDoneQ = s.initDoneQ := by
  unfold exitHold
  split <;> rfl
@[simp] theorem exitHold_initIdx (s : State) : (exitHold s).initIdx = s.initIdx := by
  unfold exitHold
  split <;> rfl

/-! ### Which requests are answered at once -/

/-- An instruction that the request port decodes answers at its own edge exactly when it sends nothing (R123, R162). -/
theorem exec_respValidQ_iff {w : Word} {i : Instr} {s t : State} (hd : decodeRequest w = .instr i)
    (h : exec i s = .next t) : t.respValidQ = true ↔ sent s.params i = none := by
  obtain rfl | ⟨b, rfl⟩ | ⟨b, rfl⟩ | ⟨r, c, rfl⟩ | rfl := decodeRequest_cases hd
  case inr.inr.inr.inl =>
    simp only [exec, execMove, rowInRange, colInRange, decide_eq_false_iff_not] at h
    split at h
    · next hr => cases h; simp [sent, hr]
    · next hr =>
      split at h
      · next hc => cases h; simp [sent, hc]
      · next hc => cases h; simp [sent, sendByte, not_not.mp hr, not_not.mp hc]
  all_goals cases h; simp [sent, sendByte]

/-- The wait of a request is one of the build's two execution waits. -/
theorem instrWait_ok {w : Word} {i : Instr} {p : Params} (hwf : p.wf = true) (hd : decodeRequest w = .instr i) :
    p.waitOk (instrWait p i) = true := by
  obtain ⟨-, -, -, -, -, hcmd, hdata, -⟩ := wf_waits hwf
  obtain rfl | ⟨b, rfl⟩ | ⟨b, rfl⟩ | ⟨r, c, rfl⟩ | rfl := decodeRequest_cases hd
  case inr.inr.inl => exact hdata
  all_goals exact hcmd

/-- What the request port makes of a word: a response at once, or the transfer of a byte with a legal wait. -/
theorem dispatch_answers_or_sends {w : Word} {s t : State} (hwf : s.params.wf = true) (h : dispatch w s = .next t) :
    (∃ st, sentByWord s.params w = none ∧ t = respond st s) ∨
    (∃ rs b tw x, sentByWord s.params w ≠ none ∧ s.params.waitOk x = true ∧ (tw = true → s.params.busWidth = 4) ∧
      t = startTransfer rs b tw x s) := by
  obtain ⟨i, hd, hx⟩ | ⟨e, hd, hx⟩ := dispatch_cases w s
  · have hsent : sentByWord s.params w = sent s.params i := by simp [sentByWord, hd]
    rw [hx] at h
    simp only [hsent, ne_eq, ← exec_respValidQ_iff hd h]
    obtain ⟨-, hi⟩ | ⟨_, _, c, -, -, hi⟩ | ⟨rs, b, tw, hi, htw⟩ := exec_cases i s <;> rw [hi] at h <;> cases h
    · exact .inl ⟨.ok, rfl, rfl⟩
    · exact .inl ⟨c, rfl, rfl⟩
    · exact .inr ⟨rs, b, tw, _, by simp, instrWait_ok hwf hd, htw, rfl⟩
  · rw [hx] at h
    cases h
    exact .inl ⟨.errIllegal, by simp [sentByWord, hd], rfl⟩

/-- `Completes` with its decoding said by `sentByWord`: a request's wait ends, or a word that sends nothing is taken
(R29). -/
theorem completes_iff (s : State) :
    Completes s ↔ (s.phase = .EXEC ∧ s.cnt = 0 ∧ s.inInit = false) ∨
      (s.phase = .IDLE ∧ (sampled s).reqValid = true ∧ sentByWord s.params (sampled s).reqWord = none) := by
  unfold Completes sentByWord
  cases decodeRequest (sampled s).reqWord with
  | instr i => rfl
  | illegal e => simp

/-! ### One edge without reset -/

/-- The edge whose `InitNext` is that of entry n: the end of PWR for entry 0, the end of an entry's EXEC for the next
one (R141, R142). -/
def EntryTurn (s : State) (n : Nat) : Prop :=
  s.cnt = 0 ∧ ((s.phase = .PWR ∧ n = 0) ∨ (s.phase = .EXEC ∧ s.inInit = true ∧ n = s.initIdx + 1))

theorem EntryTurn.phase {s : State} {n : Nat} (h : EntryTurn s n) : s.phase = .PWR ∨ s.phase = .EXEC :=
  h.2.imp And.left And.left

/-- The next states of an edge without reset, one constructor for each thing the edge can do. -/
inductive Edge (s : State) : State → Prop
  /-- CFG (R140). -/
  | configure (hph : s.phase = .CFG) : Edge s (exitCfg (taken s))
  /-- IDLE without a request (R120). -/
  | hold (hph : s.phase = .IDLE) (hv : (sampled s).reqValid = false) : Edge s (taken s)
  /-- A request that sends nothing: NOP, a MOVE out of range, an illegal word (R123, R126, R162). -/
  | answer (st : Status) (hph : s.phase = .IDLE) (hv : (sampled s).reqValid = true)
      (hsent : sentByWord s.params (sampled s).reqWord = none) : Edge s (respond st (taken s))
  /-- A request that sends a byte (R100, R122). -/
  | send (rs : Bool) (b : Byte) (tw : Bool) (x : Nat) (hph : s.phase = .IDLE) (hv : (sampled s).reqValid = true)
      (hsent : sentByWord s.params (sampled s).reqWord ≠ none) (hx : s.params.waitOk x = true)
      (htw : tw = true → s.params.busWidth = 4) : Edge s (startTransfer rs b tw x (taken s))
  /-- A timed phase with cycles left (R26). -/
  | count (hcfg : s.phase ≠ .CFG) (hidle : s.phase ≠ .IDLE) (hcnt : s.cnt ≠ 0) : Edge s (countDown (taken s))
  /-- The next init entry (R142 to R144). -/
  | entry (n : Nat) (e : InitEntry) (b : Byte) (tw : Bool) (hturn : EntryTurn s n)
      (he : s.params.initSeq[n]? = some e) (htw : tw = true → s.params.busWidth = 4) :
      Edge s (startTransfer false b tw e.wait { taken s with initIdx := n, inInit := true })
  /-- The end of the init sequence (R145). -/
  | initEnd (n : Nat) (hturn : EntryTurn s n) (hn : s.params.initLen ≤ n) : Edge s (endInit (taken s))
  /-- AS exit (R102). -/
  | asExit (hph : s.phase = .AS) (hcnt : s.cnt = 0) : Edge s (exitAs (taken s))
  /-- EH exit (R103). -/
  | ehExit (hph : s.phase = .EH) (hcnt : s.cnt = 0) : Edge s (exitEh (taken s))
  /-- DS exit (R104). -/
  | dsExit (hph : s.phase = .DS) (hcnt : s.cnt = 0) : Edge s (exitDs (taken s))
  /-- HOLD exit, to the second pulse or to the execution wait (R105). -/
  | holdExit (hph : s.phase = .HOLD) (hcnt : s.cnt = 0) : Edge s (exitHold (taken s))
  /-- EXEC exit of a request (R106). -/
  | requestEnd (hph : s.phase = .EXEC) (hcnt : s.cnt = 0) (hreq : s.inInit = false) :
      Edge s (respond .ok { taken s with phase := .IDLE })

/-- `InitNext` in the turn of entry n starts the entry or ends the sequence (R142). -/
theorem Edge.of_initNext {s t : State} {n : Nat} (hturn : EntryTurn s n) (h : initNext n (taken s) = .next t) :
    Edge s t := by
  obtain ⟨e, b, tw, he, htw, hx⟩ | ⟨hn, hx⟩ := initNext_cases n (taken s) <;> rw [hx] at h <;> cases h
  · exact .entry n e b tw hturn he htw
  · exact .initEnd n hturn hn

/-- Every edge without reset is one of these. -/
theorem step_edge {s t : State} (hr : (sampled s).rst = false) (h : step s = .next t) : Edge s t := by
  obtain ⟨hwf, ⟨hr', -⟩ | ⟨-, h⟩⟩ := step_cases h
  · simp [hr] at hr'
  simp only [clearResp_advanceHost] at h
  obtain ⟨hph, rfl⟩ | ⟨hph, hv, rfl⟩ | ⟨hph, hv, h⟩ | ⟨hcfg, hidle, hcnt, rfl⟩ | ⟨hph, hcnt, h⟩ | ⟨hph, hcnt, rfl⟩ |
    ⟨hph, hcnt, rfl⟩ | ⟨hph, hcnt, rfl⟩ | ⟨hph, hcnt, rfl⟩ | ⟨hph, hcnt, h⟩ := h
  · exact .configure hph
  · exact .hold hph hv
  · obtain ⟨st, hsent, rfl⟩ | ⟨rs, b, tw, x, hsent, hx, htw, rfl⟩ := dispatch_answers_or_sends (s := taken s) hwf h
    · exact .answer st hph hv hsent
    · exact .send rs b tw x hph hv hsent hx htw
  · exact .count hcfg hidle hcnt
  · exact .of_initNext ⟨hcnt, .inl ⟨hph, rfl⟩⟩ h
  · exact .asExit hph hcnt
  · exact .ehExit hph hcnt
  · exact .dsExit hph hcnt
  · exact .holdExit hph hcnt
  · unfold exitExec at h
    split at h
    · next hin => exact .of_initNext ⟨hcnt, .inr ⟨hph, hin, rfl⟩⟩ h
    · next hin => cases h; exact .requestEnd hph hcnt (by simpa using hin)

/-- A reset edge (R230). -/
theorem step_reset {s : State} (hwf : s.params.wf = true) (hr : (sampled s).rst = true) :
    step s = .next (resetEdge (advanceHost s)) := by
  simp [step_eq_clockEdge hwf, clockEdge, hr]

end Sys2Proof.Machine
end

section
/-! PROOF. The state of the engine (10_state.md): its invariant, and what an edge does to the flags. -/

namespace Sys2Proof.Machine

open Sys2Proof.Statements

/-! ### The invariant: phases, waits and pulse values -/

theorem Phase.inTransfer_iff {ph : Phase} :
    ph.inTransfer = true ↔ ph = .AS ∨ ph = .EH ∨ ph = .DS ∨ ph = .HOLD ∨ ph = .EXEC := by
  cases ph <;> decide

theorem Phase.ne_of_inTransfer {ph : Phase} (h : ph.inTransfer = true) : ph ≠ .CFG ∧ ph ≠ .PWR ∧ ph ≠ .IDLE := by
  cases ph <;> simp_all [Phase.inTransfer]

/-- A legal wait, loaded as its length minus one, fits in `cnt` (R6, R26). -/
theorem pred_lt_of_waitOk {p : Params} {x : Nat} (h : p.waitOk x = true) : x - 1 < 2 ^ p.cntW := by
  have := waitOk_iff.mp h
  omega

theorem lowNibble_toNat_lt (v : Byte) : (lowNibble v).toNat < 16 := by
  simp [lowNibble]
  omega

theorem highNibble_toNat_lt (v : Byte) : (highNibble v).toNat < 16 := by
  simp [highNibble]
  omega

/-- On a 4-bit bus a pulse's value is one of the two nibbles (R101). -/
theorem pulseValue_toNat_lt (xb : Byte) (two nib : Bool) : (pulseValue 4 xb two nib).toNat < 16 := by
  unfold pulseValue
  split
  · contradiction
  split
  · exact lowNibble_toNat_lt xb
  split
  · exact highNibble_toNat_lt xb
  · exact lowNibble_toNat_lt xb

/-! ### The invariant through each register update -/

namespace EngineInv

variable {s : State}

/-- The host's acts are in no clause, and a response need not be given. -/
theorem taken (h : EngineInv s) : EngineInv (taken s) :=
  { h with
    r37 := { h.r37 with }
    respIdle := by simp }

theorem countDown (h : EngineInv s) : EngineInv (countDown s) :=
  { h with
    r37 := { h.r37 with }
    cntFits := lt_of_le_of_lt (Nat.sub_le _ _) h.cntFits }

theorem respond (h : EngineInv s) (hph : s.phase = .IDLE) (st : Status) : EngineInv (respond st s) :=
  { h with
    r37 := { h.r37 with }
    respIdle := fun _ => hph }

theorem setDbQ (h : EngineInv s) {v : Byte} (hv : s.params.busWidth = 4 → v.toNat < 16) :
    EngineInv { s with dbQ := v } :=
  { h with
    r37 := { h.r37 with }
    dbFits := hv }

theorem setNib (h : EngineInv s) (htwo : s.two = true) : EngineInv { s with nib := true } :=
  { h with r37 := { h.r37 with secondOfTwo := fun _ => htwo } }

/-- From CFG to PWR: the pins are driven (R140). -/
theorem exitCfg (h : EngineInv s) (hph : s.phase = .CFG) (hresp : s.respValidQ = false) : EngineInv (exitCfg s) := by
  obtain ⟨hin, hdone, hidx⟩ := h.boot (.inl hph)
  obtain ⟨hpwr, -⟩ := wf_waits h.paramsWf
  have he : s.eQ = false := by simpa [hph] using h.r37.eHigh
  exact
    { h with
      r37 :=
        { h.r37 with
          eHigh := by simp [Machine.exitCfg, he]
          oeLow := by simp [Machine.exitCfg]
          initRuns := by simp [Machine.exitCfg, hin]
          idleReady := by simp [Machine.exitCfg] }
      boot := fun _ => ⟨hin, hdone, hidx⟩
      owner := by simp [Machine.exitCfg, Phase.inTransfer]
      cntFits := pred_lt_of_waitOk hpwr
      xwaitPos := by simp [Machine.exitCfg, Phase.inTransfer]
      respIdle := by simp [Machine.exitCfg, hresp] }

/-- From phase to phase of a transfer: E is high exactly in EH and DS (R102 to R105). -/
theorem movePhase (h : EngineInv s) (hin : s.phase.inTransfer = true) (hresp : s.respValidQ = false) {ph : Phase}
    (hph : ph.inTransfer = true) {e : Bool} (he : e = true ↔ ph = .EH ∨ ph = .DS) {x : Nat}
    (hx : s.params.waitOk x = true) : EngineInv (enterPhase ph x { s with eQ := e }) := by
  obtain ⟨hcfg, hpwr, hidle⟩ := Phase.ne_of_inTransfer hph
  have hoe : s.oeQ ≠ false := fun hoe => (Phase.ne_of_inTransfer hin).1 (h.r37.oeLow.mp hoe)
  exact
    { h with
      r37 :=
        { h.r37 with
          eHigh := he
          oeLow := iff_of_false hoe hcfg
          initRuns := fun hrun => ⟨(h.r37.initRuns hrun).1, hph⟩
          idleReady := fun hi => absurd hi hidle }
      boot := fun hb => absurd hb (not_or.mpr ⟨hcfg, hpwr⟩)
      owner := fun _ => h.owner hin
      cntFits := pred_lt_of_waitOk hx
      xwaitPos := fun _ => h.xwaitPos hin
      respIdle := by simp [hresp] }

/-- Between transfers the pins are driven and E is low. -/
theorem pins_between (h : EngineInv s) (hph : s.phase = .IDLE ∨ s.phase = .PWR ∨ s.phase = .EXEC) :
    s.oeQ = true ∧ s.eQ = false := by
  have hoe := h.r37.oeLow
  have he := h.r37.eHigh
  obtain hph | hph | hph := hph <;> simpa [hph] using And.intro hoe he

/-- A transfer starts, of init entry n or of a request (`run`): an entry's before initialization is done, a request's
after it (R100, R145). -/
theorem startTransfer (h : EngineInv s) (hph : s.phase = .IDLE ∨ s.phase = .PWR ∨ s.phase = .EXEC) {rs : Bool} {b : Byte}
    {tw : Bool} {x n : Nat} {run : Bool} (htw : tw = true → s.params.busWidth = 4) (hx : s.params.waitOk x = true)
    (howner : run = !s.initDoneQ) (hentry : run = true → n < s.params.initLen)
    (hrequest : run = false → n = s.params.initLen) :
    EngineInv (startTransfer rs b tw x { s with initIdx := n, inInit := run }) := by
  obtain ⟨hoe, he⟩ := h.pins_between hph
  obtain ⟨-, has, -⟩ := wf_waits h.paramsWf
  obtain ⟨hpos, hle⟩ := waitOk_iff.mp hx
  exact
    { h with
      r37 :=
        { rwLow := rfl
          eHigh := by simp [he]
          oeLow := by simp [hoe]
          initRuns := by simp [howner, Phase.inTransfer]
          idleReady := by simp
          secondOfTwo := by simp
          twoNarrow := htw }
      boot := by simp
      owner := by simp [howner]
      cntFits := pred_lt_of_waitOk has
      xwaitFits := hle
      xwaitPos := fun _ => hpos
      idxRuns := hentry
      idxDone := by simpa [howner] using hrequest
      respIdle := by simp }

/-- The init sequence ends in IDLE (R142, R145). -/
theorem endInit (h : EngineInv s) (hph : s.phase = .PWR ∨ s.phase = .EXEC) : EngineInv (endInit s) := by
  obtain ⟨hoe, he⟩ := h.pins_between (.inr hph)
  exact
    { h with
      r37 :=
        { h.r37 with
          eHigh := by simp [Machine.endInit, he]
          oeLow := by simp [Machine.endInit, hoe]
          initRuns := by simp [Machine.endInit]
          idleReady := by simp [Machine.endInit] }
      boot := by simp [Machine.endInit]
      owner := by simp [Machine.endInit]
      xwaitPos := by simp [Machine.endInit, Phase.inTransfer]
      idxRuns := by simp [Machine.endInit]
      idxDone := fun _ => rfl
      respIdle := fun _ => rfl }

/-- A request's execution wait ends in IDLE (R106). -/
theorem endRequest (h : EngineInv s) (hph : s.phase = .EXEC) (hreq : s.inInit = false) :
    EngineInv { s with phase := .IDLE } := by
  obtain ⟨hoe, he⟩ := h.pins_between (.inr (.inr hph))
  have hdone : s.initDoneQ = true := h.owner (by simp [hph, Phase.inTransfer]) hreq
  exact
    { h with
      r37 :=
        { h.r37 with
          eHigh := by simp [he]
          oeLow := by simp [hoe]
          initRuns := by simp [hreq]
          idleReady := fun _ => ⟨hreq, hdone⟩ }
      boot := by simp
      owner := by simp [Phase.inTransfer]
      xwaitPos := by simp [Phase.inTransfer]
      respIdle := fun _ => rfl }

/-- While it is an entry's turn, initialization is not done (R142). -/
theorem initDoneQ_of_turn (h : EngineInv s) {n : Nat} (hturn : EntryTurn s n) : s.initDoneQ = false := by
  obtain ⟨-, ⟨hph, -⟩ | ⟨-, hin, -⟩⟩ := hturn
  · obtain ⟨-, hdone, -⟩ := h.boot (.inr hph)
    exact hdone
  · exact (h.r37.initRuns hin).1

/-- HOLD exit: the second pulse of a byte, or the execution wait, which is a legal one (R105). -/
theorem exitHold (h : EngineInv s) (hph : s.phase = .HOLD) (hresp : s.respValidQ = false) : EngineInv (exitHold s) := by
  have hin : s.phase.inTransfer = true := by simp [hph, Phase.inTransfer]
  have he : s.eQ = false := by simpa [hph] using h.r37.eHigh
  unfold Machine.exitHold
  split
  · next htwo =>
    obtain ⟨-, -, heh, -⟩ := wf_waits h.paramsWf
    exact (h.setNib htwo.1).movePhase hin hresp rfl (by simp) heh
  · have hx : s.params.waitOk s.xwait = true := waitOk_iff.mpr ⟨h.xwaitPos hin, h.xwaitFits⟩
    exact h.movePhase hin hresp (e := s.eQ) rfl (by simp [he]) hx

end EngineInv

/-- Every edge without reset keeps the invariant. -/
theorem Edge.inv {s t : State} (edge : Edge s t) (h : EngineInv s) : EngineInv t := by
  have hs := h.taken
  obtain ⟨-, -, heh, hds, hh, -, -, hentries⟩ := wf_waits h.paramsWf
  cases edge with
  | configure hph => exact hs.exitCfg hph rfl
  | hold hph hv => exact hs
  | answer st hph hv hsent => exact hs.respond hph st
  | send rs b tw x hph hv hsent hx htw =>
    obtain ⟨hin, hdone⟩ := h.r37.idleReady hph
    exact hs.startTransfer (.inl hph) (n := s.initIdx) (run := s.inInit) htw hx (by simp [hin, hdone]) (by simp [hin])
      (fun _ => h.idxDone hdone)
  | count hcfg hidle hcnt => exact hs.countDown
  | entry n e b tw hturn he htw =>
    have hlt : n < s.params.initLen := (List.getElem?_eq_some_iff.mp he).1
    have hx : s.params.waitOk e.wait = true := hentries e (List.mem_of_getElem? he)
    exact hs.startTransfer (.inr hturn.phase) htw hx (by simp [h.initDoneQ_of_turn hturn]) (fun _ => hlt) (by simp)
  | initEnd n hturn hn => exact hs.endInit hturn.phase
  | asExit hph hcnt => exact hs.movePhase (by simp [hph, Phase.inTransfer]) rfl rfl (by simp) heh
  | ehExit hph hcnt =>
    have he : s.eQ = true := h.r37.eHigh.mpr (.inl hph)
    have hv : s.params.busWidth = 4 → (pulseValue s.params.busWidth s.xb s.two s.nib).toNat < 16 :=
      fun hbw => hbw ▸ pulseValue_toNat_lt s.xb s.two s.nib
    exact (hs.setDbQ hv).movePhase (by simp [hph, Phase.inTransfer]) rfl (e := s.eQ) rfl (by simp [he]) hds
  | dsExit hph hcnt => exact hs.movePhase (by simp [hph, Phase.inTransfer]) rfl rfl (by simp) hh
  | holdExit hph hcnt => exact hs.exitHold hph rfl
  | requestEnd hph hcnt hreq => exact (hs.endRequest hph hreq).respond rfl .ok

/-- Before any edge the registers are 0 and the phase is CFG: R37 holds whatever the parameters are (R36). -/
theorem r37_afterReset (p : Params) (host : List HostAct) : R37 (afterReset p host) := by
  constructor <;> simp [afterReset, State.reset]

theorem engineInv_afterReset {p : Params} (host : List HostAct) (hwf : p.wf = true) : EngineInv (afterReset p host) := by
  constructor
  case r37 => exact r37_afterReset p host
  case paramsWf => exact hwf
  all_goals simp [afterReset, State.reset, Phase.inTransfer]

/-- Settles O43. -/
theorem engineInvariantHoldsAfterReset : Obligations.EngineInvariantHoldsAfterReset :=
  ⟨fun _ host hwf => engineInv_afterReset host hwf, engineInv_afterReset (p := engineParams 4) [] (by decide)⟩

/-- Settles O44: a reset edge makes the invariant afresh, and every other edge keeps it by its case. -/
theorem everyStepKeepsTheEngineInvariant : Obligations.EveryStepKeepsTheEngineInvariant := by
  intro s t h hstep
  cases hr : (sampled s).rst with
  | true =>
    rw [step_reset h.paramsWf hr] at hstep
    cases hstep
    exact engineInv_afterReset _ (by simpa using h.paramsWf)
  | false => exact (step_edge hr hstep).inv h

/-- In a reachable cycle R37 holds, whatever the parameters; a well-formed engine meets its whole invariant. Only such an
engine has a next state. -/
theorem Reachable.r37_and_inv {s : State} (h : Reachable s) : R37 s ∧ (s.params.wf = true → EngineInv s) := by
  induction h with
  | reset p host => exact ⟨r37_afterReset p host, engineInv_afterReset host⟩
  | step _ hs ih =>
    have hinv := everyStepKeepsTheEngineInvariant _ _ (ih.2 (step_cases hs).1) hs
    exact ⟨hinv.r37, fun _ => hinv⟩

/-- Settles O45, by the invariant along the run. -/
theorem ruleInvariantsHoldInEveryReachableCycle : Obligations.RuleInvariantsHoldInEveryReachableCycle := by
  intro s hs
  obtain ⟨hrw, he, hoe, hinit, hidle, hnib, htwo⟩ := hs.r37_and_inv.1
  exact ⟨hrw, he, hoe, fun hin => (hinit hin).imp_right Phase.inTransfer_iff.mp, hidle, hnib, htwo⟩

/-! ### The flags of a response -/

/-- An entry's turn is no completion of a request (R145). -/
theorem not_completes_of_turn {s : State} {n : Nat} (hturn : EntryTurn s n) : ¬ Completes s := by
  obtain ⟨-, ⟨hph, -⟩ | ⟨hph, hin, -⟩⟩ := hturn <;> simp [completes_iff, *]

theorem Edge.respValidQ_iff {s t : State} (edge : Edge s t) : t.respValidQ = true ↔ Completes s := by
  cases edge with
  | configure hph => simp [completes_iff, hph, exitCfg]
  | hold hph hv => simp [completes_iff, hph, hv]
  | answer st hph hv hsent => simp [completes_iff, hph, hv, hsent]
  | send rs b tw x hph hv hsent hx htw => simp [completes_iff, hph, hsent]
  | count hcfg hidle hcnt => simp [completes_iff, hidle, hcnt]
  | entry n e b tw hturn he htw => simp [not_completes_of_turn hturn]
  | initEnd n hturn hn => simp [not_completes_of_turn hturn, endInit]
  | asExit hph hcnt => simp [completes_iff, hph, exitAs]
  | ehExit hph hcnt => simp [completes_iff, hph, exitEh]
  | dsExit hph hcnt => simp [completes_iff, hph, exitDs]
  | holdExit hph hcnt => simp [completes_iff, hph]
  | requestEnd hph hcnt hreq => simp [completes_iff, hph, hcnt, hreq]

/-- Settles O35, by the cases of an edge. -/
theorem responseIsGivenExactlyAtCompletion : Obligations.ResponseIsGivenExactlyAtCompletion :=
  fun _ _ hr hstep => (step_edge hr hstep).respValidQ_iff

/-- Settles O36: only the two edges that respond write the status. -/
theorem statusIsKeptUntilTheNextResponse : Obligations.StatusIsKeptUntilTheNextResponse := by
  intro s t hr hstep hresp
  cases step_edge hr hstep with
  | answer | requestEnd => simp at hresp
  | holdExit => exact exitHold_respStatusQ _
  | _ => rfl

/-! ### The flags of the init sequence -/

/-- Only the end of the init sequence writes `init_done_q` (R30, R145). -/
theorem Edge.initDoneQ_cases {s t : State} (edge : Edge s t) :
    t.initDoneQ = s.initDoneQ ∨ t = endInit (taken s) := by
  cases edge with
  | initEnd => exact .inr rfl
  | holdExit => exact .inl (exitHold_initDoneQ _)
  | _ => exact .inl rfl

/-- Settles O37. -/
theorem initDoneRisesOnceAndStays : Obligations.InitDoneRisesOnceAndStays := by
  intro s t hr hstep
  obtain hkept | rfl := (step_edge hr hstep).initDoneQ_cases
  · exact ⟨hkept.trans, fun hlow hhigh => by simp [hkept, hlow] at hhigh⟩
  · exact ⟨fun _ => rfl, fun _ _ => ⟨rfl, rfl, rfl⟩⟩

/-- `init_idx` never passes INIT_LEN (R27): it is 0 before the sequence, an entry's index in it, and INIT_LEN after. -/
theorem EngineInv.initIdx_le {s : State} (h : EngineInv s) : s.initIdx ≤ s.params.initLen := by
  cases hdone : s.initDoneQ with
  | true => exact (h.idxDone hdone).le
  | false =>
    cases hin : s.inInit with
    | true => exact (h.idxRuns hin).le
    | false =>
      cases hph : s.phase with
      | CFG | PWR => simp [h.boot (by simp [hph])]
      | IDLE => simp [h.r37.idleReady hph] at hdone
      | AS | EH | DS | HOLD | EXEC => simp [h.owner (by simp [hph, Phase.inTransfer]) hin] at hdone

/-- The entry whose turn it is stands at `init_idx`, before the first, or one further (R142). -/
theorem EngineInv.turn_eq {s : State} (h : EngineInv s) {n : Nat} (hturn : EntryTurn s n) :
    n = s.initIdx ∨ n = s.initIdx + 1 := by
  obtain ⟨-, ⟨hph, rfl⟩ | ⟨-, -, hn⟩⟩ := hturn
  · obtain ⟨-, -, hidx⟩ := h.boot (.inr hph)
    exact .inl hidx.symm
  · exact .inr hn

/-- Settles O38: the bound is the invariant's, and only the edges of an entry's turn write `init_idx`. -/
theorem initIndexMovesForwardByOne : Obligations.InitIndexMovesForwardByOne := by
  intro s t h hr hstep
  have hle : t.initIdx ≤ s.params.initLen :=
    step_params hstep ▸ (everyStepKeepsTheEngineInvariant s t h hstep).initIdx_le
  refine ⟨?_, hle⟩
  cases step_edge hr hstep with
  | entry n e b tw hturn he htw => exact h.turn_eq hturn
  | initEnd n hturn hn =>
    have hidx := h.turn_eq hturn
    have := h.initIdx_le
    change s.params.initLen = _ ∨ s.params.initLen = _
    omega
  | holdExit => exact .inl (exitHold_initIdx _)
  | _ => exact .inl rfl

/-! ### Reset values and output ports -/

/-- Settles O6: the registers of `resetEdge` are those of R36, and with `oe_q = 0` every pin is Z. -/
theorem resetEdgeWritesEveryRegister : Obligations.ResetEdgeWritesEveryRegister := by
  intro s hwf hr
  exact ⟨resetEdge (advanceHost s), step_reset hwf hr, by simp [resetEdge, State.reset], rfl⟩

/-- Settles O7, by evaluation of the reset state. -/
theorem resetStateHasTheResetValues : Obligations.ResetStateHasTheResetValues :=
  ⟨rfl, by decide, rfl⟩

theorem reqReady_iff {s : State} : reqReady s = true ↔ s.phase = .IDLE := decide_eq_true_iff

/-- Settles O11. -/
theorem portsShowTheRegisters : Obligations.PortsShowTheRegisters := by
  intro s
  refine ⟨rfl, rfl, rfl, rfl, reqReady_iff, rfl, ?_, rfl⟩
  show s.respStatusQ.code = _
  cases s.respStatusQ <;> rfl

/-- The parts of a packed vector are read back at their positions (R32), for each of the 32 values of the parts. -/
theorem packed_fields {done valid ready : Bool} {status : BitVec 2} {v : BitVec 5}
    (h : v = BitVec.ofBool done ++ status ++ BitVec.ofBool valid ++ BitVec.ofBool ready) :
    v.getLsbD 0 = ready ∧ v.getLsbD 1 = valid ∧ v.extractLsb' 2 2 = status ∧ v.getLsbD 4 = done := by
  subst h
  revert done valid ready status
  decide

/-- Settles O12. -/
theorem statusVectorPacksTheStatusOutputs : Obligations.StatusVectorPacksTheStatusOutputs :=
  fun _ => packed_fields rfl

/-! ### Counting, and the host's offers -/

/-- Settles O26. -/
theorem timedPhaseCountsDown : Obligations.TimedPhaseCountsDown := by
  intro s ⟨hwf, hr⟩ hcfg hidle hcnt
  rw [step_count hwf hr ⟨hcfg, hidle⟩ hcnt.ne', clearResp_advanceHost]
  rfl

theorem advanceHost_offer {s : State} {w : Word} {rest : List HostAct} (h : s.host = .offer w :: rest) :
    (advanceHost s).host = if s.phase = .IDLE then rest else s.host := by
  unfold advanceHost
  rw [h]
  by_cases hph : s.phase = .IDLE <;> simp [reqReady, hph, h]

/-- Settles O33: a step takes from the host what `advanceHost` takes. -/
theorem offerStaysUntilAccepted : Obligations.OfferStaysUntilAccepted := by
  intro s t w rest hhost hstep
  rw [step_host hstep, advanceHost_offer hhost]
  exact ⟨fun hph => if_pos hph, fun hph => if_neg hph⟩

end Sys2Proof.Machine
end

section
/-! SUPPORT. Runs with their record: what a stretch of edges does, and how stretches compose. -/

namespace Sys2Proof.Machine

open Sys2Proof.Statements

/-- The k edges from state s, the first of which has number a, lead to state u, with this record of latch events and of
responses. -/
structure Run (a k : Nat) (s u : State) (latches : List (Nat × Latch)) (responses : List (Nat × Status)) : Prop where
  edges     : runEdges k s = some u
  latches   : latchLog a k s = latches
  responses : responseLog a k s = responses

/-- The record of the latch event of edge a, if it has one. -/
def latchAt (a : Nat) (s t : State) : List (Nat × Latch) := ((latchEvent s t).map (fun l => (a, l))).toList

theorem latchEvent_eq_none {s t : State} (h : s.eQ = true → t.eQ = true) : latchEvent s t = none := by
  unfold latchEvent
  cases hs : s.eQ
  · simp
  · simp [h hs]

theorem latchAt_eq_nil {a : Nat} {s t : State} (h : s.eQ = true → t.eQ = true) : latchAt a s t = [] := by
  simp [latchAt, latchEvent_eq_none h]

/-- E falls between driven cycles: the latch event has the levels before the edge (R107). -/
theorem latchAt_of_falls {a : Nat} {s t : State} (he : s.eQ = true) (he' : t.eQ = false) (hoe : s.oeQ = true)
    (hoe' : t.oeQ = true) : latchAt a s t = [(a, ⟨s.rsQ, s.rwQ, s.dbQ⟩)] := by
  simp [latchAt, latchEvent, *]

namespace Run

variable {a k j : Nat} {s t u v : State} {ls ls' : List (Nat × Latch)} {rs rs' : List (Nat × Status)}

theorem nil : Run a 0 s s [] [] := ⟨rfl, rfl, rfl⟩

/-- One edge that gives no response. -/
theorem silent (h : step s = .next t) (hresp : t.respValidQ = false) : Run a 1 s t (latchAt a s t) [] :=
  ⟨by simp [runEdges, h], by simp [latchLog, h, latchAt], by simp [responseLog, h, hresp]⟩

/-- One edge that responds. -/
theorem responding (h : step s = .next t) (hresp : t.respValidQ = true) :
    Run a 1 s t (latchAt a s t) [(a, t.respStatusQ)] :=
  ⟨by simp [runEdges, h], by simp [latchLog, h, latchAt], by simp [responseLog, h, hresp]⟩

theorem trans (h : Run a k s u ls rs) (h' : Run (a + k) j u v ls' rs') :
    Run a (k + j) s v (ls ++ ls') (rs ++ rs') := by
  obtain ⟨hl, hr⟩ := logs_add (a := a) h.edges j
  exact ⟨(runEdges_add h.edges j).trans h'.edges, by rw [hl, h.latches, h'.latches],
    by rw [hr, h.responses, h'.responses]⟩

end Run

/-- What every step keeps is kept along a run. -/
theorem runEdges_keeps {P : State → Prop} (hP : ∀ s t, P s → step s = .next t → P t) {k : Nat} :
    ∀ {s u : State}, P s → runEdges k s = some u → P u := by
  induction k with
  | zero => intro s u h hrun; cases hrun; exact h
  | succ k ih =>
    intro s u h hrun
    simp only [runEdges] at hrun
    cases hs : step s with
    | next t => simp only [hs] at hrun; exact ih (hP s t h hs) hrun
    | fault q => cases q
    | refused q => simp [hs] at hrun

theorem runEdges_inv {k : Nat} {s u : State} (h : EngineInv s) (hrun : runEdges k s = some u) : EngineInv u :=
  runEdges_keeps everyStepKeepsTheEngineInvariant h hrun

theorem runEdges_params {k : Nat} {s u : State} (hrun : runEdges k s = some u) : u.params = s.params :=
  runEdges_keeps (P := fun v => v.params = s.params) (fun _ _ h hstep => (step_params hstep).trans h) rfl hrun

end Sys2Proof.Machine
end

section
/-! SUPPORT. A transfer, edge by edge: how many cycles are left of it and which latch events are still to come. One edge
takes one cycle off and its own latch event, so the whole transfer follows by counting. -/

namespace Sys2Proof.Machine

open Sys2Proof.Statements

/-! ### What is left of a transfer -/

/-- The second pulse of a byte is still to come (R105). -/
def secondToCome (s : State) : Bool := s.two && !s.nib

/-- The cycles of a transfer after its current phase: the rest of the pulse, a second pulse, the execution wait. -/
def cyclesAfterPhase (s : State) : Nat :=
  let pulse := s.params.tEh + s.params.tDs + s.params.tH
  let afterHold := (if secondToCome s then pulse else 0) + s.xwait
  match s.phase with
  | .AS => pulse + afterHold
  | .EH => s.params.tDs + s.params.tH + afterHold
  | .DS => s.params.tH + afterHold
  | .HOLD => afterHold
  | .CFG | .PWR | .IDLE | .EXEC => 0

/-- The edges from a cycle of a transfer to the last cycle of its EXEC. -/
def edgesToLast (s : State) : Nat := s.cnt + cyclesAfterPhase s

/-- The latch event of a second pulse that is still to come, where the HOLD exit before it is edge x. -/
def secondLatch (s : State) (x : Nat) : List (Nat × Latch) :=
  if secondToCome s then
    [(x + s.params.tEh + s.params.tDs, ⟨s.rsQ, false, pulseValue s.params.busWidth s.xb s.two true⟩)]
  else []

/-- The latch events to come in a transfer whose current phase ends at edge x. -/
def latchesToCome (s : State) (x : Nat) : List (Nat × Latch) :=
  let pulse : Latch := ⟨s.rsQ, false, pulseValue s.params.busWidth s.xb s.two s.nib⟩
  match s.phase with
  | .AS => (x + s.params.tEh + s.params.tDs, pulse) :: secondLatch s (x + s.params.tEh + s.params.tDs + s.params.tH)
  | .EH => (x + s.params.tDs, pulse) :: secondLatch s (x + s.params.tDs + s.params.tH)
  | .DS => (x, ⟨s.rsQ, false, s.dbQ⟩) :: secondLatch s (x + s.params.tH)
  | .HOLD => secondLatch s x
  | .CFG | .PWR | .IDLE | .EXEC => []

/-! ### One edge of a transfer -/

/-- A cycle of a transfer of an engine that nobody resets. -/
structure Transferring (s : State) : Prop where
  inv        : EngineInv s
  inTransfer : s.phase.inTransfer = true
  quiet      : noReset s.host = true

/-- No response is shown during a transfer. -/
theorem Transferring.respValidQ {s : State} (h : Transferring s) : s.respValidQ = false :=
  Bool.eq_false_iff.mpr fun hresp => (Phase.ne_of_inTransfer h.inTransfer).2.2 (h.inv.respIdle hresp)

/-- What the edges of a transfer keep: the request or entry it belongs to, and a host that waits with its offers. -/
structure Kept (s u : State) : Prop where
  params      : u.params = s.params
  rsQ         : u.rsQ = s.rsQ
  respStatusQ : u.respStatusQ = s.respStatusQ
  inInit      : u.inInit = s.inInit
  initIdx     : u.initIdx = s.initIdx
  initDoneQ   : u.initDoneQ = s.initDoneQ
  offered     : ∀ ws, s.host = offers ws → u.host = offers ws

theorem Kept.refl (s : State) : Kept s s := ⟨rfl, rfl, rfl, rfl, rfl, rfl, fun _ => id⟩

theorem Kept.trans {s u v : State} (h : Kept s u) (h' : Kept u v) : Kept s v :=
  ⟨h'.params.trans h.params, h'.rsQ.trans h.rsQ, h'.respStatusQ.trans h.respStatusQ, h'.inInit.trans h.inInit,
    h'.initIdx.trans h.initIdx, h'.initDoneQ.trans h.initDoneQ, fun ws hws => h'.offered ws (h.offered ws hws)⟩

/-- A host that has only offers keeps them while the engine is not ready (R121). -/
theorem advanceHost_busy {s : State} {ws : List Word} (hph : s.phase ≠ .IDLE) (h : s.host = offers ws) :
    (advanceHost s).host = offers ws := by
  cases ws with
  | nil => simp [advanceHost, offers, h]
  | cons w ws => rw [advanceHost_offer h, if_neg hph, h]

theorem Kept.taken {s : State} (hph : s.phase ≠ .IDLE) : Kept s (taken s) :=
  ⟨rfl, rfl, rfl, rfl, rfl, rfl, fun _ => advanceHost_busy hph⟩

/-- What an edge a inside a transfer does: the transfer has one cycle less to go, and of its latch events to come those
of this edge are over. -/
structure Advance (a : Nat) (s t : State) : Prop where
  inTransfer : t.phase.inTransfer = true
  kept       : Kept s t
  edges      : edgesToLast s = edgesToLast t + 1
  latches    : latchesToCome s (a + s.cnt) = latchAt a s t ++ latchesToCome t (a + 1 + t.cnt)

namespace Advance

variable {s : State} {a : Nat}

theorem ofCount (h : Transferring s) (hcnt : s.cnt ≠ 0) : Advance a s (countDown (taken s)) where
  inTransfer := h.inTransfer
  kept := .trans (.taken (Phase.ne_of_inTransfer h.inTransfer).2.2) ⟨rfl, rfl, rfl, rfl, rfl, rfl, fun _ => id⟩
  edges := by
    show s.cnt + cyclesAfterPhase s = s.cnt - 1 + cyclesAfterPhase s + 1
    omega
  latches := by
    have hx : a + 1 + (s.cnt - 1) = a + s.cnt := by omega
    rw [latchAt_eq_nil (by simp)]
    show latchesToCome s (a + s.cnt) = latchesToCome s (a + 1 + (s.cnt - 1))
    rw [hx]

/-- The last edge of a phase, into a phase of x cycles. -/
theorem ofExit {u : State} {ph : Phase} {x : Nat} (hcnt : s.cnt = 0) (hkept : Kept s u) (hph : ph.inTransfer = true)
    (hx : s.params.waitOk x = true) (hcycles : cyclesAfterPhase s = x + cyclesAfterPhase (enterPhase ph x u))
    (hlatches : latchesToCome s a = latchAt a s (enterPhase ph x u) ++ latchesToCome (enterPhase ph x u) (a + x)) :
    Advance a s (enterPhase ph x u) := by
  have hpos := (waitOk_iff.mp hx).1
  have hend : a + 1 + (x - 1) = a + x := by omega
  refine ⟨hph, hkept.trans ⟨rfl, rfl, rfl, rfl, rfl, rfl, fun _ => id⟩, ?_, ?_⟩
  · simp only [edgesToLast, hcnt, hcycles, enterPhase_cnt]
    omega
  · rw [enterPhase_cnt, hend, hcnt, Nat.add_zero, hlatches]

/-- The registers that an exit action writes besides phase and count are none of those a transfer keeps. -/
theorem kept_exit (h : Transferring s) (e nib : Bool) (v : Byte) :
    Kept s { taken s with eQ := e, nib := nib, dbQ := v } :=
  .trans (.taken (Phase.ne_of_inTransfer h.inTransfer).2.2) ⟨rfl, rfl, rfl, rfl, rfl, rfl, fun _ => id⟩

theorem asExit (h : Transferring s) (hph : s.phase = .AS) (hcnt : s.cnt = 0) : Advance a s (exitAs (taken s)) := by
  obtain ⟨-, -, heh, -⟩ := wf_waits h.inv.paramsWf
  refine ofExit hcnt (kept_exit h true s.nib s.dbQ) rfl heh ?_ ?_
  · simp [cyclesAfterPhase, hph, secondToCome, Nat.add_assoc]
  · rw [latchAt_eq_nil (by simp)]
    simp [latchesToCome, hph, secondLatch, secondToCome]

theorem ehExit (h : Transferring s) (hph : s.phase = .EH) (hcnt : s.cnt = 0) : Advance a s (exitEh (taken s)) := by
  obtain ⟨-, -, -, hds, -⟩ := wf_waits h.inv.paramsWf
  refine ofExit hcnt (kept_exit h s.eQ s.nib _) rfl hds ?_ ?_
  · simp [cyclesAfterPhase, hph, secondToCome, Nat.add_assoc]
  · rw [latchAt_eq_nil (by simp)]
    simp [latchesToCome, hph, secondLatch, secondToCome]

/-- The latch edge (R104, R107). -/
theorem dsExit (h : Transferring s) (hph : s.phase = .DS) (hcnt : s.cnt = 0) : Advance a s (exitDs (taken s)) := by
  obtain ⟨-, -, -, -, hh, -⟩ := wf_waits h.inv.paramsWf
  have he : s.eQ = true := h.inv.r37.eHigh.mpr (.inr hph)
  have hoe : s.oeQ = true := by simpa [hph] using h.inv.r37.oeLow
  refine ofExit hcnt (kept_exit h false s.nib s.dbQ) rfl hh ?_ ?_
  · simp [cyclesAfterPhase, hph, secondToCome]
  · rw [latchAt_of_falls he (by simp) hoe (by simpa using hoe), h.inv.r37.rwLow]
    simp [latchesToCome, hph, secondLatch, secondToCome]

theorem holdExit (h : Transferring s) (hph : s.phase = .HOLD) (hcnt : s.cnt = 0) :
    Advance a s (exitHold (taken s)) := by
  obtain ⟨-, -, heh, -⟩ := wf_waits h.inv.paramsWf
  have he : s.eQ = false := by simpa [hph] using h.inv.r37.eHigh
  unfold exitHold
  split
  · next hsecond =>
    obtain ⟨htwo, hnib⟩ : s.two = true ∧ s.nib = false := hsecond
    refine ofExit hcnt (kept_exit h true true s.dbQ) rfl heh ?_ ?_
    · simp [cyclesAfterPhase, hph, secondToCome, htwo, hnib, Nat.add_assoc]
    · rw [latchAt_eq_nil (by simp [he])]
      simp [latchesToCome, hph, secondLatch, secondToCome, htwo, hnib]
  · next hlast =>
    have hsecond : secondToCome s = false := by simpa [secondToCome] using hlast
    have hx : s.params.waitOk s.xwait = true := waitOk_iff.mpr ⟨h.inv.xwaitPos h.inTransfer, h.inv.xwaitFits⟩
    refine ofExit hcnt (kept_exit h s.eQ s.nib s.dbQ) rfl hx ?_ ?_
    · simp [cyclesAfterPhase, hph, hsecond]
    · rw [latchAt_eq_nil (by simp [he])]
      simp [latchesToCome, hph, secondLatch, hsecond]

end Advance

/-- In its turn an entry's transfer is over. -/
theorem EntryTurn.edgesToLast {s : State} {n : Nat} (h : EntryTurn s n) : edgesToLast s = 0 := by
  obtain ⟨hcnt, ⟨hph, -⟩ | ⟨hph, -⟩⟩ := h <;> simp [Machine.edgesToLast, cyclesAfterPhase, hcnt, hph]

/-- Every edge of a transfer before the last one advances it. -/
theorem Edge.advance {s t : State} (edge : Edge s t) (h : Transferring s) (hleft : 0 < edgesToLast s) (a : Nat) :
    Advance a s t := by
  obtain ⟨hcfg, -, hidle⟩ := Phase.ne_of_inTransfer h.inTransfer
  cases edge with
  | configure hph => exact absurd hph hcfg
  | hold hph | answer _ hph | send _ _ _ _ hph => exact absurd hph hidle
  | count _ _ hcnt => exact .ofCount h hcnt
  | entry n e b tw hturn => exact absurd hturn.edgesToLast hleft.ne'
  | initEnd n hturn => exact absurd hturn.edgesToLast hleft.ne'
  | asExit hph hcnt => exact .asExit h hph hcnt
  | ehExit hph hcnt => exact .ehExit h hph hcnt
  | dsExit hph hcnt => exact .dsExit h hph hcnt
  | holdExit hph hcnt => exact .holdExit h hph hcnt
  | requestEnd hph hcnt => simp [edgesToLast, cyclesAfterPhase, hph, hcnt] at hleft

theorem Transferring.advance {s : State} (h : Transferring s) (hleft : 0 < edgesToLast s) (a : Nat) :
    ∃ t, step s = .next t ∧ Transferring t ∧ Advance a s t := by
  obtain ⟨t, hstep⟩ := step_next h.inv.paramsWf
  have hadv := (step_edge (sampled_rst_of_noReset h.quiet) hstep).advance h hleft a
  have hquiet : noReset t.host = true := step_host hstep ▸ noReset_advanceHost h.quiet
  exact ⟨t, hstep, ⟨everyStepKeepsTheEngineInvariant s t h.inv hstep, hadv.inTransfer, hquiet⟩, hadv⟩

/-! ### A whole transfer -/

/-- The first k edges of what is left of a transfer: they give no response, and with the latch events still to come
after them their own make up those to come before. -/
theorem Transferring.run {s : State} (h : Transferring s) (a : Nat) {k : Nat} (hk : k ≤ edgesToLast s) :
    ∃ u ls, Run a k s u ls [] ∧ Transferring u ∧ Kept s u ∧ edgesToLast s = edgesToLast u + k ∧
      latchesToCome s (a + s.cnt) = ls ++ latchesToCome u (a + k + u.cnt) := by
  induction k with
  | zero => exact ⟨s, [], .nil, h, .refl s, rfl, rfl⟩
  | succ k ih =>
    obtain ⟨u, ls, hrun, hu, hkept, hedges, hlatches⟩ := ih (by omega)
    obtain ⟨t, hstep, ht, hadv⟩ := hu.advance (by omega) (a + k)
    refine ⟨t, _, hrun.trans (.silent hstep ht.respValidQ), ht, hkept.trans hadv.kept, ?_, ?_⟩
    · rw [hedges, hadv.edges]
      omega
    · rw [hlatches, hadv.latches, List.append_assoc, Nat.add_assoc a k 1]

/-- A transfer with no edge left is in the last cycle of its EXEC: every earlier phase has the execution wait before
it. -/
theorem Transferring.exec_of_edgesToLast_eq_zero {s : State} (h : Transferring s) (hleft : edgesToLast s = 0) :
    s.phase = .EXEC ∧ s.cnt = 0 := by
  have hx := h.inv.xwaitPos h.inTransfer
  obtain ⟨hcnt, hafter⟩ := Nat.add_eq_zero_iff.mp hleft
  refine ⟨?_, hcnt⟩
  unfold cyclesAfterPhase at hafter
  obtain hph | hph | hph | hph | hph := Phase.inTransfer_iff.mp h.inTransfer
  case inr.inr.inr.inr => exact hph
  all_goals
    simp only [hph] at hafter
    omega

/-- A transfer runs to the last cycle of its EXEC, with all its latch events to come and no response. -/
theorem Transferring.run_to_last {s : State} (h : Transferring s) (a : Nat) :
    ∃ u, Run a (edgesToLast s) s u (latchesToCome s (a + s.cnt)) [] ∧ Transferring u ∧ Kept s u ∧
      u.phase = .EXEC ∧ u.cnt = 0 := by
  obtain ⟨u, ls, hrun, hu, hkept, hedges, hlatches⟩ := h.run a le_rfl
  obtain ⟨hph, hcnt⟩ := hu.exec_of_edgesToLast_eq_zero (by omega)
  have hls : latchesToCome s (a + s.cnt) = ls := by simpa [latchesToCome, hph] using hlatches
  exact ⟨u, hls ▸ hrun, hu, hkept, hph, hcnt⟩

/-! ### Where a transfer starts -/

theorem highNibble_eq (v : Byte) : highNibble v = BitVec.ofNat 8 (v.toNat / 16) := by
  revert v
  decide

theorem lowNibble_eq (v : Byte) : lowNibble v = BitVec.ofNat 8 (v.toNat % 16) := by
  revert v
  decide

/-- A transfer of one or two pulses, from its first cycle (R241). -/
theorem edgesToLast_startTransfer {s : State} (hwf : s.params.wf = true) (rs : Bool) (b : Byte) (tw : Bool) (x : Nat) :
    edgesToLast (startTransfer rs b tw x s) + 1 = transferCycles s.params (if tw then 2 else 1) x := by
  obtain ⟨-, has, -⟩ := wf_waits hwf
  have hpos := (waitOk_iff.mp has).1
  cases tw <;> simp [edgesToLast, cyclesAfterPhase, secondToCome, transferCycles] <;> omega

/-- The latch events of a whole byte, from the first cycle of its transfer, which starts at edge a (R108, R241). -/
theorem latchesToCome_sendByte {s : State} (hwf : s.params.wf = true) (rs : Bool) (b : Byte) (x a : Nat) :
    latchesToCome (sendByte rs b x s) (a + s.params.tAs) = byteLatches s.params a rs b := by
  obtain hbw | hbw := wf_busWidth hwf
  · have hx : a + s.params.tAs + s.params.tEh + s.params.tDs + s.params.tH + s.params.tEh + s.params.tDs =
        a + s.params.tAs + 2 * s.params.tEh + 2 * s.params.tDs + s.params.tH := by omega
    simp [latchesToCome, sendByte, fourBit, secondLatch, secondToCome, byteLatches, pulseValue, hbw, hx, highNibble_eq,
      lowNibble_eq]
  · simp [latchesToCome, sendByte, fourBit, secondLatch, secondToCome, byteLatches, pulseValue, hbw]

end Sys2Proof.Machine
end

section
/-! SUPPORT. Requests: what the request port makes of a word, by what the word sends. -/

namespace Sys2Proof.Machine

open Sys2Proof.Statements

/-! ### The answer to a word -/

/-- The command byte of an accepted row and column (R161, R165): no bit of the sum is cut off. -/
theorem setAddrCmd_ddramAddr {p : Params} {row : BitVec 3} {col : BitVec 6} (hwf : p.wf = true)
    (hr : row.toNat < p.numRows) (hc : col.toNat ≤ p.colMax) :
    setAddrCmd (ddramAddr p row col) = BitVec.ofNat 8 (0x80 + p.rowBaseAt row.toNat + col.toNat) := by
  have hor : ∀ a : BitVec 7, setAddrCmd a = BitVec.ofNat 8 (0x80 + a.toNat) := by decide
  have hfit := wf_fit hwf hr
  have hmod : (p.rowBaseAt row.toNat + col.toNat) % 2 ^ 7 = p.rowBaseAt row.toNat + col.toNat :=
    Nat.mod_eq_of_lt (by omega)
  rw [hor, ddramAddr, BitVec.toNat_ofNat, hmod, Nat.add_assoc]

/-- The row and column checks of R162, in its order. -/
theorem execMove_eq (row : BitVec 3) (col : BitVec 6) (s : State) :
    exec (.move row col) s =
      if s.params.numRows ≤ row.toNat then .next (respond .errRow s)
      else if s.params.colMax < col.toNat then .next (respond .errCol s)
      else .next (sendByte false (setAddrCmd (ddramAddr s.params row col)) s.params.tExecCmd s) := by
  simp [exec, execMove, rowInRange, colInRange, reject]

/-- A request that sends something starts the transfer of its byte (R124, R125, R162, R163). -/
theorem exec_of_sent {i : Instr} {s : State} {rs : Bool} {b : Byte} {x : Nat} (hwf : s.params.wf = true)
    (h : sent s.params i = some (rs, b, x)) : exec i s = .next (sendByte rs b x s) := by
  cases i with
  | nop | ibyte | inib => simp [sent] at h
  | cmd | data | clear => cases h; rfl
  | move row col =>
    simp only [sent] at h
    split at h
    · next hin =>
      cases h
      rw [execMove_eq, if_neg hin.1.not_ge, if_neg hin.2.not_gt, setAddrCmd_ddramAddr hwf hin.1 hin.2]
    · cases h

/-- A word that sends something starts the transfer of its byte, to be answered OK. -/
theorem dispatch_of_sent {w : Word} {s : State} {rs : Bool} {b : Byte} {x : Nat} (hwf : s.params.wf = true)
    (h : sentByWord s.params w = some (rs, b, x)) : dispatch w s = .next (sendByte rs b x s) := by
  unfold sentByWord at h
  unfold dispatch
  cases hd : decodeRequest w with
  | instr i => simp only [hd] at h; exact exec_of_sent hwf h
  | illegal e => simp [hd] at h

theorem answer_of_sent {w : Word} {p : Params} {r : Bool × Byte × Nat} (h : sentByWord p w = some r) :
    answer p w = .ok := by
  unfold sentByWord at h
  unfold answer
  cases hd : decodeRequest w with
  | illegal e => simp [hd] at h
  | instr i =>
    cases i with
    | move row col =>
      simp only [hd, sent] at h
      split at h
      · next hin => simp [hin.1.not_ge, hin.2.not_gt]
      · cases h
    | _ => rfl

/-- A word that sends nothing gets its answer at once, and nothing else changes (R123, R126, R201 to R203). -/
theorem dispatch_of_not_sent {w : Word} {s : State} (h : sentByWord s.params w = none) :
    dispatch w s = .next (respond (answer s.params w) s) := by
  unfold sentByWord at h
  unfold dispatch answer
  cases hd : decodeRequest w with
  | illegal e => rfl
  | instr i =>
    simp only [hd] at h ⊢
    obtain rfl | ⟨b, rfl⟩ | ⟨b, rfl⟩ | ⟨row, col, rfl⟩ | rfl := decodeRequest_cases hd
    case inr.inr.inr.inl =>
      rw [execMove_eq]
      by_cases hr : s.params.numRows ≤ row.toNat
      · simp [hr]
      · have hc : s.params.colMax < col.toNat := by simpa [sent, not_le.mp hr] using h
        simp [hr, hc]
    case inl => rfl
    all_goals simp [sent] at h

/-- The acceptance edge of a request (R120, R122). -/
theorem step_request {s : State} (hruns : Runs s) (hph : s.phase = .IDLE) (hv : (sampled s).reqValid = true) :
    step s = dispatch (sampled s).reqWord (taken s) := by
  obtain ⟨hwf, hr⟩ := hruns
  rw [← clearResp_advanceHost, step_eq_clockEdge hwf]
  simp [clockEdge, hr, runEdge, hph, idleEdge, hv]

/-- The EXEC exit of a request (R106). -/
theorem step_requestEnd {s : State} (hruns : Runs s) (hph : s.phase = .EXEC) (hcnt : s.cnt = 0)
    (hreq : s.inInit = false) : step s = .next (respond .ok { taken s with phase := .IDLE }) := by
  rw [step_exit hruns.1 hruns.2 (by simp [hph]) hcnt, clearResp_advanceHost]
  simp [exitPhase, hph, exitExec, hreq]

/-! ### The run of a request -/

section

variable {s : State} {rs : Bool} {b : Byte} {x : Nat}

theorem bytePulses_eq (p : Params) : bytePulses p = if fourBit p then 2 else 1 := by
  by_cases hbw : p.busWidth = 4 <;> simp [bytePulses, fourBit, hbw]

/-- The first cycle of an accepted request's transfer. -/
theorem transferring_sendByte (h : EngineInv s) (hquiet : noReset s.host = true)
    (hstep : step s = .next (sendByte rs b x (taken s))) : Transferring (sendByte rs b x (taken s)) :=
  ⟨everyStepKeepsTheEngineInvariant _ _ h hstep, rfl, noReset_advanceHost hquiet⟩

/-- The length of a request's transfer, from the acceptance edge to the response edge (R241). -/
theorem edgesToLast_sendByte (h : EngineInv s) :
    1 + edgesToLast (sendByte rs b x (taken s)) = transferCycles s.params (bytePulses s.params) x := by
  rw [bytePulses_eq, Nat.add_comm]
  exact edgesToLast_startTransfer (s := taken s) h.paramsWf rs b (fourBit s.params) x

/-- A request that sends a byte, accepted at edge a, from its acceptance to its response (R108, R241). -/
theorem run_of_sendByte (h : EngineInv s) (hph : s.phase = .IDLE) (hquiet : noReset s.host = true)
    (hstep : step s = .next (sendByte rs b x (taken s))) (a : Nat) :
    ∃ t, Run a (transferCycles s.params (bytePulses s.params) x + 1) s t (byteLatches s.params a rs b)
        [(a + transferCycles s.params (bytePulses s.params) x, .ok)] ∧
      t.phase = .IDLE ∧ t.respValidQ = true ∧ t.respStatusQ = .ok ∧ t.rsQ = rs ∧
      ∀ ws, (taken s).host = offers ws → t.host = offers ws := by
  obtain ⟨hin, -⟩ := h.r37.idleReady hph
  obtain ⟨-, he⟩ := h.pins_between (.inl hph)
  obtain ⟨-, has, -⟩ := wf_waits h.paramsWf
  obtain ⟨u, hrun, hu, hkept, huph, hucnt⟩ := (transferring_sendByte h hquiet hstep).run_to_last (a + 1)
  have hue : u.eQ = false := (hu.inv.pins_between (.inr (.inr huph))).2
  have hlast := step_requestEnd ⟨hu.inv.paramsWf, sampled_rst_of_noReset hu.quiet⟩ huph hucnt (hkept.inInit.trans hin)
  have hall := ((Run.silent (a := a) hstep rfl).trans hrun).trans (.responding hlast rfl)
  have hx : a + 1 + (sendByte rs b x (taken s)).cnt = a + (taken s).params.tAs := by
    have := (waitOk_iff.mp has).1
    simp only [sendByte, startTransfer_cnt, taken_params]
    omega
  rw [latchAt_eq_nil (by simp [he]), latchAt_eq_nil (by simp [hue]), hx,
    latchesToCome_sendByte (s := taken s) h.paramsWf, edgesToLast_sendByte h] at hall
  refine ⟨respond .ok { taken u with phase := .IDLE }, by simpa using hall, rfl, rfl, rfl, hkept.rsQ, fun ws hws => ?_⟩
  exact advanceHost_busy (by simp [huph]) (hkept.offered ws hws)

/-- Until its response the engine is not ready and shows no new status (R58). -/
theorem busy_after_sendByte (h : EngineInv s) (hquiet : noReset s.host = true)
    (hstep : step s = .next (sendByte rs b x (taken s))) {k : Nat} (hpos : 1 ≤ k)
    (hk : k ≤ transferCycles s.params (bytePulses s.params) x) :
    ∃ u, runEdges k s = some u ∧ u.phase ≠ .IDLE ∧ u.respValidQ = false ∧ u.respStatusQ = s.respStatusQ := by
  obtain ⟨j, rfl⟩ := Nat.exists_eq_add_of_le hpos
  have hj : j ≤ edgesToLast (sendByte rs b x (taken s)) := by
    have := edgesToLast_sendByte (rs := rs) (b := b) (x := x) h
    omega
  obtain ⟨u, _, hrun, hu, hkept, -⟩ := (transferring_sendByte h hquiet hstep).run 0 hj
  exact ⟨u, by rw [Nat.add_comm]; simpa [runEdges, hstep] using hrun.edges, (Phase.ne_of_inTransfer hu.inTransfer).2.2,
    hu.respValidQ, hkept.respStatusQ⟩

end

/-! ### Words offered one after another -/

theorem sampled_offer {s : State} {w : Word} {rest : List HostAct} (h : s.host = .offer w :: rest) :
    sampled s = ⟨false, true, w⟩ := by
  simp [sampled, h]

theorem noReset_offers (ws : List Word) : noReset (offers ws) = true := by
  simp [noReset, offers, HostAct.resets]

/-- The first word of those offered to an idle engine: its latch events, its one response, and the engine idle again
with the other words still offered (R61, R121, R180). -/
theorem run_of_offer {s : State} {w : Word} {ws : List Word} (h : EngineInv s) (hph : s.phase = .IDLE)
    (hhost : s.host = offers (w :: ws)) (a : Nat) :
    ∃ t, Run a (latency s.params w + 1) s t (wordLatches s.params a w)
        [(a + latency s.params w, answer s.params w)] ∧ t.phase = .IDLE ∧ t.host = offers ws := by
  have hin := sampled_offer hhost
  have htaken : (taken s).host = offers ws := (advanceHost_offer hhost).trans (if_pos hph)
  have hstep : step s = dispatch w (taken s) := by
    simpa [hin] using step_request ⟨h.paramsWf, by rw [hin]⟩ hph (by rw [hin])
  cases hsent : sentByWord s.params w with
  | none =>
    have hanswer := hstep.trans (dispatch_of_not_sent hsent)
    have hrun := Run.responding (a := a) hanswer rfl
    rw [latchAt_eq_nil (by simp)] at hrun
    exact ⟨respond (answer s.params w) (taken s), by simpa [latency, wordLatches, hsent] using hrun, hph, htaken⟩
  | some r =>
    obtain ⟨rs, b, x⟩ := r
    have hquiet : noReset s.host = true := hhost ▸ noReset_offers (w :: ws)
    obtain ⟨t, hrun, htph, -, -, -, hkept⟩ :=
      run_of_sendByte h hph hquiet (hstep.trans (dispatch_of_sent h.paramsWf hsent)) a
    exact ⟨t, by simpa [latency, wordLatches, hsent, answer_of_sent hsent] using hrun, htph, hkept ws htaken⟩

/-- Words offered one after another: the records of their runs, one behind the other. -/
theorem run_of_offers {ws : List Word} : ∀ {s : State}, EngineInv s → s.phase = .IDLE → s.host = offers ws → ∀ a,
    ∃ t, Run a (requestsCycles s.params ws) s t (requestsLatches s.params a ws) (requestsResponses s.params a ws) ∧
      t.phase = .IDLE ∧ t.host = [] := by
  induction ws with
  | nil => exact fun {s} _ hph hhost a => ⟨s, .nil, hph, hhost⟩
  | cons w ws ih =>
    intro s h hph hhost a
    obtain ⟨u, hfirst, huph, huhost⟩ := run_of_offer h hph hhost a
    obtain ⟨t, hrest, ht⟩ := ih (runEdges_inv h hfirst.edges) huph huhost (a + (latency s.params w + 1))
    rw [runEdges_params hfirst.edges] at hrest
    exact ⟨t, hfirst.trans hrest, ht⟩

end Sys2Proof.Machine
end

section
/-! SUPPORT. The engine under another host: outside IDLE an edge without reset does the same to every register. -/

namespace Sys2Proof.Machine

/-- The engine with another host. -/
def setHost (host : List HostAct) (s : State) : State := { s with host := host }

@[simp] theorem setHost_params (host : List HostAct) (s : State) : (setHost host s).params = s.params := rfl
@[simp] theorem setHost_phase (host : List HostAct) (s : State) : (setHost host s).phase = s.phase := rfl
@[simp] theorem setHost_cnt (host : List HostAct) (s : State) : (setHost host s).cnt = s.cnt := rfl
@[simp] theorem setHost_inInit (host : List HostAct) (s : State) : (setHost host s).inInit = s.inInit := rfl

section

variable {s t : State} (host : List HostAct)

theorem exec_setHost {i : Instr} (h : exec i s = .next t) : exec i (setHost host s) = .next (setHost host t) := by
  cases i with
  | move row col =>
    rw [execMove_eq] at h ⊢
    split at h
    · next hr => cases h; exact if_pos hr
    · next hr =>
      split at h
      · next hc => cases h; exact (if_neg hr).trans (if_pos hc)
      · next hc => cases h; exact (if_neg hr).trans (if_neg hc)
  | _ => cases h; rfl

theorem initNext_setHost {n : Nat} (h : initNext n s = .next t) :
    initNext n (setHost host s) = .next (setHost host t) := by
  unfold initNext at h ⊢
  rw [setHost_params]
  split at h
  · exact exec_setHost host h
  · cases h; rfl

theorem exitHold_setHost (s : State) : exitHold (setHost host s) = setHost host (exitHold s) := by
  unfold exitHold
  rw [apply_ite (setHost host)]
  rfl

theorem exitExec_setHost (h : exitExec s = .next t) : exitExec (setHost host s) = .next (setHost host t) := by
  unfold exitExec at h ⊢
  rw [setHost_inInit]
  split at h
  · next hin => rw [if_pos hin]; exact initNext_setHost host h
  · next hin => rw [if_neg hin]; cases h; rfl

/-- The exit action of a phase does not look at the host. -/
theorem exitPhase_setHost (h : exitPhase s = .next t) : exitPhase (setHost host s) = .next (setHost host t) := by
  unfold exitPhase at h ⊢
  rw [setHost_phase]
  cases hph : s.phase <;> simp only [hph] at h ⊢
  case PWR => exact initNext_setHost host h
  case HOLD => cases h; rw [exitHold_setHost]
  case EXEC => exact exitExec_setHost host h
  all_goals cases h; rfl

theorem timedEdge_setHost (h : timedEdge s = .next t) : timedEdge (setHost host s) = .next (setHost host t) := by
  unfold timedEdge at h ⊢
  rw [setHost_cnt]
  split at h
  · next hcnt => rw [if_pos hcnt]; exact exitPhase_setHost host h
  · next hcnt => rw [if_neg hcnt]; cases h; rfl

/-- Outside IDLE an edge without reset reads no input (R58, R120). -/
theorem runEdge_setHost {inp inp' : Inputs} (hph : s.phase ≠ .IDLE) (h : runEdge inp s = .next t) :
    runEdge inp' (setHost host s) = .next (setHost host t) := by
  unfold runEdge at h ⊢
  rw [setHost_phase]
  cases hp : s.phase <;> simp only [hp] at h ⊢
  case IDLE => exact absurd hp hph
  case CFG => exact exitPhase_setHost host h
  all_goals exact timedEdge_setHost host h

end

end Sys2Proof.Machine
end

section
/-! PROOF. The request port and the pins (20_memory.md). -/

namespace Sys2Proof.Machine

open Sys2Proof.Statements

/-! ### Whole requests -/

/-- Settles O46: the edges of the request's transfer, counted. -/
theorem acceptedRequestRunsToItsResponse : Obligations.AcceptedRequestRunsToItsResponse := by
  intro s a i rs b x h hph hv hquiet hd hsent
  have hword : sentByWord s.params (sampled s).reqWord = some (rs, b, x) := by simp [sentByWord, hd, hsent]
  have hstep : step s = .next (sendByte rs b x (taken s)) :=
    (step_request ⟨h.paramsWf, sampled_rst_of_noReset hquiet⟩ hph hv).trans (dispatch_of_sent h.paramsWf hword)
  obtain ⟨t, hrun, htph, hresp, hst, hrs, -⟩ := run_of_sendByte h hph hquiet hstep a
  have he : t.eQ = false := ((runEdges_inv h hrun.edges).pins_between (.inl htph)).2
  exact ⟨hrun.latches, ⟨t, hrun.edges, htph, hresp, hst, hrs, he⟩, fun k => busy_after_sendByte h hquiet hstep⟩

/-- Settles O47, by the words one after another. -/
theorem offeredRequestsAreTakenInOrderWithOneResponseEach :
    Obligations.OfferedRequestsAreTakenInOrderWithOneResponseEach := by
  intro s a ws h hph hhost
  obtain ⟨t, hrun, ht⟩ := run_of_offers h hph hhost a
  exact ⟨hrun.responses, hrun.latches, t, hrun.edges, runEdges_inv h hrun.edges, ht⟩

/-! ### The pins -/

/-- Settles O40: from IDLE to IDLE an edge holds or answers, and neither writes a pin. -/
theorem answeringAtOnceChangesNoPin : Obligations.AnsweringAtOnceChangesNoPin := by
  intro s t hr hstep hph htph
  have hpins : t.oeQ = s.oeQ ∧ t.rsQ = s.rsQ ∧ t.rwQ = s.rwQ ∧ t.eQ = s.eQ ∧ t.dbQ = s.dbQ := by
    cases step_edge hr hstep with
    | hold | answer => exact ⟨rfl, rfl, rfl, rfl, rfl⟩
    | send => simp at htph
    | count _ hidle => exact absurd hph hidle
    | entry _ _ _ _ hturn | initEnd _ hturn => simpa [hph] using hturn.phase
    | configure h | asExit h | ehExit h | dsExit h | holdExit h | requestEnd h => simp [hph] at h
  obtain ⟨hoe, hrs, hrw, he, hdb⟩ := hpins
  exact ⟨hoe, hrs, hrw, he, hdb, latchEvent_eq_none he.trans⟩

/-! ### HOLD exit: of the pins it writes E alone (R105) -/

@[simp] theorem exitHold_rsQ (s : State) : (exitHold s).rsQ = s.rsQ := by
  unfold exitHold
  split <;> rfl
@[simp] theorem exitHold_dbQ (s : State) : (exitHold s).dbQ = s.dbQ := by
  unfold exitHold
  split <;> rfl

/-- An edge without reset writes at most one of RS, E and the bus (R62). -/
theorem Edge.pins_kept {s t : State} (edge : Edge s t) :
    (t.eQ = s.eQ ∧ t.dbQ = s.dbQ) ∨ (t.rsQ = s.rsQ ∧ t.dbQ = s.dbQ) ∨ (t.rsQ = s.rsQ ∧ t.eQ = s.eQ) := by
  cases edge with
  | configure | hold | answer | send | count | entry | initEnd | requestEnd => exact .inl ⟨rfl, rfl⟩
  | asExit | dsExit => exact .inr (.inl ⟨rfl, rfl⟩)
  | ehExit => exact .inr (.inr ⟨rfl, rfl⟩)
  | holdExit => exact .inr (.inl ⟨exitHold_rsQ _, exitHold_dbQ _⟩)

/-- Settles O41: the one register written is the one that changes, and RW is low before the edge and after it. -/
theorem atMostOneKindOfPinChangesAtAnEdge : Obligations.AtMostOneKindOfPinChangesAtAnEdge := by
  intro s t h hr hstep
  have hrw : t.rwQ = s.rwQ :=
    (everyStepKeepsTheEngineInvariant s t h hstep).r37.rwLow.trans h.r37.rwLow.symm
  obtain ⟨he, hdb⟩ | ⟨hrs, hdb⟩ | ⟨hrs, he⟩ := (step_edge hr hstep).pins_kept
  · exact ⟨fun _ => ⟨he, hdb⟩, fun hne => absurd he hne, hrw⟩
  · exact ⟨fun hne => absurd hrs hne, fun _ => ⟨hrs, hdb⟩, hrw⟩
  · exact ⟨fun hne => absurd hrs hne, fun hne => absurd he hne, hrw⟩

/-! ### The request port outside IDLE -/

/-- Settles O34: the edge's rule starts from two states that differ in the host only, and reads none of it. -/
theorem busyEngineIgnoresTheRequestPort : Obligations.BusyEngineIgnoresTheRequestPort := by
  intro s t host hph hrst hstep
  have hwf := (step_cases hstep).1
  have htaken : advanceHost (setHost host s) = setHost (advanceHost (setHost host s)).host (advanceHost s) := by
    rw [advanceHost_eq (setHost host s), advanceHost_eq s]
    rfl
  refine ⟨(advanceHost (setHost host s)).host, ?_⟩
  change step (setHost host s) = .next (setHost _ t)
  change (sampled (setHost host s)).rst = _ at hrst
  rw [step_eq_clockEdge hwf] at hstep
  rw [step_eq_clockEdge (s := setHost host s) hwf]
  unfold clockEdge at hstep ⊢
  rw [hrst, htaken]
  split at hstep
  · next hr => rw [if_pos hr]; cases hstep; rfl
  · next hr => rw [if_neg hr]; exact runEdge_setHost _ (by simpa using hph) hstep

end Sys2Proof.Machine
end

section
/-! SUPPORT. Decoding and encoding are inverse to each other: a code decodes to an instruction exactly when it is the
instruction's code. -/

namespace Sys2Proof

/-! ### The fields of an encoded word -/

@[simp] theorem fieldOp_encodeN (op : BitVec 4) : fieldOp (encodeN op) = op := by
  apply BitVec.eq_of_toNat_eq
  rw [fieldOp_toNat, encodeN_toNat]
  omega

@[simp] theorem fieldOp_encodeB (op : BitVec 4) (b : Byte) : fieldOp (encodeB op b) = op := by
  apply BitVec.eq_of_toNat_eq
  rw [fieldOp_toNat, encodeB_toNat]
  omega

@[simp] theorem fieldOp_encodeM (op : BitVec 4) (r : BitVec 3) (c : BitVec 6) : fieldOp (encodeM op r c) = op := by
  apply BitVec.eq_of_toNat_eq
  rw [fieldOp_toNat, encodeM_toNat]
  omega

@[simp] theorem fieldByte_encodeB (op : BitVec 4) (b : Byte) : fieldByte (encodeB op b) = b := by
  apply BitVec.eq_of_toNat_eq
  rw [fieldByte_toNat, encodeB_toNat]
  omega

@[simp] theorem fieldRow_encodeM (op : BitVec 4) (r : BitVec 3) (c : BitVec 6) : fieldRow (encodeM op r c) = r := by
  apply BitVec.eq_of_toNat_eq
  rw [fieldRow_toNat, encodeM_toNat]
  omega

@[simp] theorem fieldCol_encodeM (op : BitVec 4) (r : BitVec 3) (c : BitVec 6) : fieldCol (encodeM op r c) = c := by
  apply BitVec.eq_of_toNat_eq
  rw [fieldCol_toNat, encodeM_toNat]
  omega

@[simp] theorem reservedN_encodeN (op : BitVec 4) : reservedN (encodeN op) = true := by
  rw [reservedN_iff, encodeN_toNat]
  omega

@[simp] theorem reservedB_encodeB (op : BitVec 4) (b : Byte) : reservedB (encodeB op b) = true := by
  rw [reservedB_iff, encodeB_toNat]
  omega

@[simp] theorem reservedM_encodeM (op : BitVec 4) (r : BitVec 3) (c : BitVec 6) :
    reservedM (encodeM op r c) = true := by
  rw [reservedM_iff, encodeM_toNat]
  omega

/-! ### The word with given fields -/

theorem encodeN_of_fields {w : Word} {op : BitVec 4} (hop : fieldOp w = op) (hr : reservedN w = true) :
    encodeN op = w := by
  subst hop
  rw [reservedN_iff] at hr
  apply BitVec.eq_of_toNat_eq
  rw [encodeN_toNat, fieldOp_toNat]
  omega

theorem encodeB_of_fields {w : Word} {op : BitVec 4} (hop : fieldOp w = op) (hr : reservedB w = true) :
    encodeB op (fieldByte w) = w := by
  subst hop
  rw [reservedB_iff] at hr
  apply BitVec.eq_of_toNat_eq
  rw [encodeB_toNat, fieldOp_toNat, fieldByte_toNat]
  omega

theorem encodeM_of_fields {w : Word} {op : BitVec 4} (hop : fieldOp w = op) (hr : reservedM w = true) :
    encodeM op (fieldRow w) (fieldCol w) = w := by
  subst hop
  rw [reservedM_iff] at hr
  apply BitVec.eq_of_toNat_eq
  rw [encodeM_toNat, fieldOp_toNat, fieldRow_toNat, fieldCol_toNat]
  omega

/-! ### Requests -/

theorem orReserved_eq_instr {ok : Bool} {i j : Instr} : orReserved ok i = .instr j ↔ ok = true ∧ i = j := by
  cases ok <;> simp [orReserved]

/-- A request word that decodes is the code of what it decodes to (R76, R78). -/
theorem encode_of_decodeRequest {w : Word} {i : Instr} (h : decodeRequest w = .instr i) : encode i = .request w := by
  unfold decodeRequest at h
  split_ifs at h with hnop hcmd hdata hmove hclear
  all_goals obtain ⟨hr, rfl⟩ := orReserved_eq_instr.mp h
  · exact congrArg _ (encodeN_of_fields hnop hr)
  · exact congrArg _ (encodeB_of_fields hcmd hr)
  · exact congrArg _ (encodeB_of_fields hdata hr)
  · exact congrArg _ (encodeM_of_fields hmove hr)
  · exact congrArg _ (encodeN_of_fields hclear hr)

/-! ### Init codes -/

/-- The code of an `INIB` entry is a set kind bit and its value with bits 7:4 zero (R80). -/
theorem encode_inib (v : BitVec 4) (wait : Nat) : encode (.inib v wait) = .init (1#1 ++ (0#4 ++ v)) wait :=
  congrArg (Code.init · wait) BitVec.append_assoc

/-- An `IBYTE` code is a clear kind bit and the value (R80). -/
theorem decodeInit_ibyte (v : Byte) (wait : Nat) : decodeInit (0#1 ++ v) wait = .instr (.ibyte v wait) := by
  unfold decodeInit
  rw [BitVec.extractLsb'_append_eq_left, if_pos (by decide), BitVec.extractLsb'_append_eq_right]

/-- An `INIB` code is a set kind bit and a value whose bits 7:4 are 0 (R80). -/
theorem decodeInit_inib {v : Byte} (hv : v.extractLsb' 4 4 = 0) (wait : Nat) :
    decodeInit (1#1 ++ v) wait = .instr (.inib (v.extractLsb' 0 4) wait) := by
  have hhigh : (1#1 ++ v).extractLsb' 4 4 = v.extractLsb' 4 4 := BitVec.extractLsb'_append_eq_of_add_le (by decide)
  have hlow : (1#1 ++ v).extractLsb' 0 4 = v.extractLsb' 0 4 := BitVec.extractLsb'_append_eq_of_add_le (by decide)
  unfold decodeInit
  rw [BitVec.extractLsb'_append_eq_left, if_neg (by decide), hhigh, if_pos hv, hlow]

/-- An init code that decodes is the code of what it decodes to (R80). -/
theorem encode_of_decodeInit {code : InitCode} {wait : Nat} {i : Instr} (h : decodeInit code wait = .instr i) :
    encode i = .init code wait := by
  have hcode : code.extractLsb' 8 1 ++ code.extractLsb' 0 8 = code := BitVec.extractLsb'_append_extractLsb'
  have hvalue : code.extractLsb' 4 4 ++ code.extractLsb' 0 4 = code.extractLsb' 0 8 :=
    BitVec.extractLsb'_append_extractLsb'_eq_extractLsb' rfl
  unfold decodeInit at h
  split_ifs at h with hkind hhigh
  all_goals cases h
  · rw [hkind] at hcode
    exact congrArg (Code.init · wait) hcode
  · rw [(BitVec.eq_zero_or_eq_one _).resolve_left hkind, ← hvalue, hhigh] at hcode
    rw [encode_inib]
    exact congrArg (Code.init · wait) hcode

/-! ### Every code -/

/-- The code of an instruction decodes to it (R72 to R76, R80). -/
theorem decode_encode (i : Instr) : decode (encode i) = .instr i := by
  cases i with
  | ibyte v wait => exact decodeInit_ibyte v wait
  | inib v wait =>
    have h := decodeInit_inib (v := 0#4 ++ v) BitVec.extractLsb'_append_eq_left wait
    rw [BitVec.extractLsb'_append_eq_right] at h
    rw [encode_inib]
    exact h
  | _ => simp [encode, decode, decodeRequest, orReserved]

/-- A code decodes to an instruction exactly when it is the instruction's code. -/
theorem decode_eq_instr_iff {c : Code} {i : Instr} : decode c = .instr i ↔ encode i = c := by
  refine ⟨fun h => ?_, fun h => h ▸ decode_encode i⟩
  cases c with
  | request w => exact encode_of_decodeRequest h
  | init code wait => exact encode_of_decodeInit h

theorem decodeRequest_eq_instr_iff {w : Word} {i : Instr} : decodeRequest w = .instr i ↔ encode i = .request w :=
  decode_eq_instr_iff (c := .request w)

end Sys2Proof
end

section
/-! PROOF. The encoding of requests and init entries (30_encoding.md, R70 to R80). -/

namespace Sys2Proof

open Sys2Proof.Machine

/-- Settles O2. -/
theorem decodeOfEncodeIsTheInstruction : Obligations.DecodeOfEncodeIsTheInstruction :=
  decode_encode

/-- Settles O3. -/
theorem encodeOfDecodeIsTheCode : Obligations.EncodeOfDecodeIsTheCode :=
  fun _ _ => decode_eq_instr_iff.mp

/-- Settles O1: a legal word is the code of its instruction, and an illegal one is computed. -/
theorem writtenOutWordsDecode : Obligations.WrittenOutWordsDecode :=
  ⟨decode_encode .nop, decode_encode (.cmd 0x38), decode_encode (.data 0xA5), decode_encode (.move 2 5),
    decode_encode (.move 7 63), decode_encode .clear, decodeInit_ibyte 0x28, decodeInit_inib (v := 0x03) rfl,
    by decide, by decide, by decide, by decide, by decide, by decide⟩

/-! ### Operands -/

theorem encodeB_byte_toNat {op : BitVec 4} {b : Byte} {w : Word} (h : encodeB op b = w) : b.toNat = w.toNat % 256 := by
  rw [← h, ← fieldByte_toNat, fieldByte_encodeB]

/-- Settles O5: the word is the code of its request, whose operands stand in its fields. -/
theorem operandsAreUnsignedFields : Obligations.OperandsAreUnsignedFields := by
  intro w
  simp only [decodeRequest_eq_instr_iff, encode, Code.request.injEq]
  refine ⟨fun b h => encodeB_byte_toNat h, fun b h => encodeB_byte_toNat h, ?_⟩
  rintro r c rfl
  rw [← fieldRow_toNat, ← fieldCol_toNat, fieldRow_encodeM, fieldCol_encodeM]
  exact ⟨rfl, rfl⟩

/-! ### The bit patterns of R78 -/

/-- A mask whose bits are all set in a field passes the field on. -/
theorem extractLsb'_of_and_eq {w m v : Word} (start len : Nat) (hm : m.extractLsb' start len = BitVec.allOnes len)
    (h : w &&& m = v) : w.extractLsb' start len = v.extractLsb' start len := by
  rw [← h, BitVec.extractLsb'_and, hm, BitVec.and_allOnes]

/-- Format B: a word has the opcode and clear reserved bits exactly when its bits under 0xFF00 do (R73, R78). -/
theorem exists_encodeB_iff (op : BitVec 4) (w : Word) : (∃ b, encodeB op b = w) ↔ w &&& 0xFF00 = encodeB op 0 := by
  constructor
  · rintro ⟨b, rfl⟩
    change (op ++ 0#4 ++ b) &&& (BitVec.allOnes 4 ++ BitVec.allOnes 4 ++ 0#8) = op ++ 0#4 ++ 0#8
    simp only [BitVec.and_append, BitVec.and_allOnes, BitVec.and_zero]
  · intro h
    refine ⟨fieldByte w, encodeB_of_fields ?_ ?_⟩
    · exact (extractLsb'_of_and_eq 12 4 (by decide) h).trans (fieldOp_encodeB op 0)
    · rw [reservedB, extractLsb'_of_and_eq 8 4 (by decide) h]
      exact reservedB_encodeB op 0

/-- Format M: a word has the opcode and clear reserved bits exactly when its bits under 0xF8C0 do (R74, R78). -/
theorem exists_encodeM_iff (op : BitVec 4) (w : Word) :
    (∃ r c, encodeM op r c = w) ↔ w &&& 0xF8C0 = encodeM op 0 0 := by
  constructor
  · rintro ⟨r, c, rfl⟩
    change (op ++ 0#1 ++ r ++ 0#2 ++ c) &&& (BitVec.allOnes 4 ++ BitVec.allOnes 1 ++ 0#3 ++ BitVec.allOnes 2 ++ 0#6) =
      op ++ 0#1 ++ 0#3 ++ 0#2 ++ 0#6
    simp only [BitVec.and_append, BitVec.and_allOnes, BitVec.and_zero]
  · intro h
    refine ⟨fieldRow w, fieldCol w, encodeM_of_fields ?_ ?_⟩
    · exact (extractLsb'_of_and_eq 12 4 (by decide) h).trans (fieldOp_encodeM op 0 0)
    · rw [reservedM, extractLsb'_of_and_eq 11 1 (by decide) h, extractLsb'_of_and_eq 6 2 (by decide) h]
      exact reservedM_encodeM op 0 0

/-- Format N: the mask 0xFFFF covers the whole word (R72, R78). -/
theorem encodeN_eq_iff (op : BitVec 4) (w : Word) : encodeN op = w ↔ w &&& 0xFFFF = encodeN op := by
  rw [show w &&& 0xFFFF = w from BitVec.and_allOnes, eq_comm]

/-- A word is `ILLEGAL` exactly when it is none of the five requests (R76). -/
theorem exists_illegal_iff (w : Word) :
    (∃ e, decodeRequest w = .illegal e) ↔
      ¬(decodeRequest w = .instr .nop ∨ (∃ b, decodeRequest w = .instr (.cmd b)) ∨
        (∃ b, decodeRequest w = .instr (.data b)) ∨ (∃ r c, decodeRequest w = .instr (.move r c)) ∨
        decodeRequest w = .instr .clear) := by
  cases h : decodeRequest w with
  | illegal e => simp
  | instr i =>
    simp only [reduceCtorEq, exists_false, false_iff, not_not, Decoded.instr.injEq]
    exact decodeRequest_cases h

/-- Settles O4, format by format. -/
theorem bitPatternsSelectTheRequest : Obligations.BitPatternsSelectTheRequest := by
  intro w
  rw [exists_illegal_iff]
  simp only [decodeRequest_eq_instr_iff, encode, Code.request.injEq, encodeN_eq_iff, exists_encodeB_iff,
    exists_encodeM_iff]
  exact ⟨.rfl, .rfl, .rfl, .rfl, .rfl, .rfl⟩

end Sys2Proof

namespace Sys2Proof.Machine

open Sys2Proof.Statements

/-! ### Init entries -/

/-- `chk_init` (R6): each entry of `INIT_SEQ` passes. -/
theorem wf_entryOk {p : Params} (h : p.wf = true) {e : InitEntry} (he : e ∈ p.initSeq) : p.entryOk e = true :=
  List.all_eq_true.mp (wf_holds h .chkInit) e he

/-- The code of an entry that passes `chk_init` decodes to the entry's instruction (R80). -/
theorem decodeInit_code {p : Params} {e : InitEntry} (h : p.entryOk e = true) :
    decodeInit e.code e.wait = .instr (decodeEntry e) := by
  obtain ⟨kind, v, wait⟩ := e
  cases kind with
  | ibyte => exact decodeInit_ibyte v wait
  | inib =>
    have hle : v.toNat ≤ 0x0F := (of_decide_eq_true h).1
    have hv : v.extractLsb' 4 4 = 0 := by
      apply BitVec.eq_of_toNat_eq
      rw [BitVec.extractLsb'_toNat, Nat.shiftRight_eq_div_pow, Nat.div_eq_of_lt (by omega)]
      rfl
    exact decodeInit_inib hv wait

/-- In the turn of entry n the edge is `InitNext(n)` (R141, R142). -/
theorem step_turn {s : State} {n : Nat} (hruns : Runs s) (hturn : EntryTurn s n) : step s = initNext n (taken s) := by
  obtain ⟨hcnt, hph⟩ := hturn
  have hexit := step_exit hruns.1 hruns.2 (by rcases hph with ⟨h, -⟩ | ⟨h, -⟩ <;> simp [h]) hcnt
  rw [hexit, clearResp_advanceHost]
  obtain ⟨hph, rfl⟩ | ⟨hph, hin, rfl⟩ := hph
  · simp [exitPhase, hph]
  · simp [exitPhase, exitExec, hph, hin]

theorem initNext_entry {s : State} {n : Nat} {e : InitEntry} (h : s.params.initSeq[n]? = some e) :
    initNext n s = exec (decodeEntry e) { s with initIdx := n, inInit := true } := by
  simp [initNext, h]

/-- Settles O24: the entry is one that `chk_init` passed. -/
theorem stepRunsTheNextInitEntry : Obligations.StepRunsTheNextInitEntry := by
  intro s n e hruns hcnt hph he
  exact ⟨decodeEntry e, decodeInit_code (wf_entryOk hruns.1 (List.mem_of_getElem? he)),
    (step_turn hruns ⟨hcnt, hph⟩).trans (initNext_entry he)⟩

end Sys2Proof.Machine
end

section
/-! PROOF. The assembler's request lines and texts (30_encoding.md, R81 and R82). -/

namespace Sys2Proof.Machine

/-! ### Request lines -/

/-- A line that assembles to one instruction's code decodes to the instruction. -/
theorem assembled_decodes {line : Option (List Word)} {w : Word} {i : Instr} (hline : line = some [w])
    (hcode : encode i = .request w) : line.map (List.map decodeRequest) = some [.instr i] := by
  rw [hline, Option.map_some, List.map_singleton, decodeRequest_eq_instr_iff.mpr hcode]

/-- Settles O54, line by line. -/
theorem assembledLinesDecodeToTheirRequests : Obligations.AssembledLinesDecodeToTheirRequests := by
  intro p m n
  refine ⟨assembled_decodes rfl rfl, assembled_decodes rfl rfl, fun h => assembled_decodes (if_pos h) rfl,
    fun h => assembled_decodes (if_pos h) rfl, fun h => ?_, fun hm hn => assembled_decodes (if_pos ⟨hm, hn⟩) rfl,
    fun h => if_neg (by omega), fun h => ⟨_, if_pos h, ?_⟩, ?_, ?_, fun h => if_neg (by omega)⟩
  · exact ⟨if_neg (by omega), if_neg (by omega)⟩
  · exact Nat.mod_eq_of_lt (by omega)
  · rw [assembleLine, if_pos (by decide)]
    decide
  · rw [assembleLine, if_pos (by decide)]
    decide

/-! ### The bytes of a text -/

theorem textBytes_cons {b : Byte} (h : b ≠ 0x5C) (u : List Byte) : textBytes (b :: u) = b :: textBytes u := by
  cases u with
  | nil => rfl
  | cons c cs => exact if_neg fun hesc => h hesc.1

theorem textBytes_zero (u : List Byte) : textBytes (0x5C :: 0x30 :: u) = 0x00 :: textBytes u :=
  if_pos ⟨rfl, rfl⟩

theorem textBytes_backslash {u : List Byte} (h : u.head? ≠ some 0x30) :
    textBytes (0x5C :: u) = 0x5C :: textBytes u := by
  cases u with
  | nil => rfl
  | cons c cs => exact if_neg fun hesc => h (congrArg some hesc.2)

/-- A text without a backslash stands for itself before any other. -/
theorem textBytes_append {t : List Byte} (h : 0x5C ∉ t) (u : List Byte) : textBytes (t ++ u) = t ++ textBytes u := by
  induction t with
  | nil => rfl
  | cons b t ih =>
    rw [List.mem_cons, not_or] at h
    rw [List.cons_append, textBytes_cons (Ne.symm h.1), ih h.2, List.cons_append]

/-! ### The characters of a text -/

/-- The code of a character as a byte. -/
def charByte (c : Char) : Byte := BitVec.ofNat 8 c.toNat

/-- Inside a text the reader takes each ASCII character for its code, up to the closing quote that ends the line. -/
theorem lexLine_text {cs : List Char} (h : ∀ c ∈ cs, c.toNat ≤ 0x7F ∧ c.toNat ≠ 0x22) (acc : List Byte) :
    lexLine (.text acc) (cs ++ ['"']) = some [.text (textBytes (acc.reverse ++ cs.map charByte))] := by
  induction cs generalizing acc with
  | nil => simp [lexLine, emitRun]
  | cons c cs ih =>
    obtain ⟨⟨hascii, hquote⟩, hcs⟩ := List.forall_mem_cons.mp h
    simp [lexLine, hascii, hquote, ih hcs, charByte]

/-- A `string` line is its mnemonic and then its text. -/
theorem lexLine_string (cs : List Char) :
    lexLine (.plain []) (['s', 't', 'r', 'i', 'n', 'g', ' ', '"'] ++ cs) =
      (lexLine (.text []) cs).map (.run ['s', 't', 'r', 'i', 'n', 'g'] :: ·) :=
  rfl

theorem assembleText_string (p : Params) {cs : List Char} (h : ∀ c ∈ cs, c.toNat ≤ 0x7F ∧ c.toNat ≠ 0x22) :
    assembleText p (['s', 't', 'r', 'i', 'n', 'g', ' ', '"'] ++ cs ++ ['"']) =
      some (stringWords (textBytes (cs.map charByte))) := by
  rw [List.append_assoc, assembleText, readLine, lexLine_string, lexLine_text h]
  rfl

/-- Settles O55. -/
theorem textCharactersStandForTheirCodes : Obligations.TextCharactersStandForTheirCodes := by
  refine ⟨fun p _ => assembleText_string p, fun t h => ?_, fun t u h => ?_, fun t u h hu => ?_⟩
  · simpa [textBytes] using textBytes_append h []
  · rw [textBytes_append h, textBytes_zero]
  · rw [textBytes_append h, textBytes_backslash hu]

end Sys2Proof.Machine
end

section
/-! PROOF. Transfers (40_transfer.md): how a transfer starts, the exits of its phases, and its latch events. -/

namespace Sys2Proof.Machine

open Sys2Proof.Statements

/-! ### The start of a transfer -/

/-- `StartTransfer` register by register (R100). -/
theorem startTransfer_eq (rs : Bool) (b : Byte) (tw : Bool) (w : Nat) (s : State) :
    startTransfer rs b tw w s = { s with
      rsQ := rs, rwQ := false, xb := b, two := tw, nib := false, xwait := w,
      phase := .AS, cnt := s.params.tAs - 1, respValidQ := false } := rfl

/-- A whole byte takes a second pulse exactly on a 4-bit bus (R57, R100). -/
theorem sendByte_eq (rs : Bool) (b : Byte) (w : Nat) (s : State) :
    sendByte rs b w s = { s with
      rsQ := rs, rwQ := false, xb := b, two := narrow s.params, nib := false, xwait := w,
      phase := .AS, cnt := s.params.tAs - 1, respValidQ := false } :=
  startTransfer_eq rs b (narrow s.params) w s

/-- Settles O14. -/
theorem cmdStartsACommandTransfer : Obligations.CmdStartsACommandTransfer :=
  fun s b => congrArg Host.Outcome.next (sendByte_eq false b s.params.tExecCmd s)

/-- Settles O15. -/
theorem dataStartsADataTransfer : Obligations.DataStartsADataTransfer :=
  fun s b => congrArg Host.Outcome.next (sendByte_eq true b s.params.tExecData s)

/-- CLEAR is the command of the clear-display byte (R163). -/
theorem exec_clear (s : State) : exec .clear s = exec (.cmd 0x01) s := rfl

/-- Settles O16, by the command it is. -/
theorem clearSendsTheClearByte : Obligations.ClearSendsTheClearByte :=
  fun s => ⟨(exec_clear s).trans (cmdStartsACommandTransfer s 0x01), exec_clear s⟩

/-- Settles O17: a MOVE in range sends its address command, and `chk_fit` keeps the sum in the byte. -/
theorem moveInRangeSendsTheSetAddressCommand : Obligations.MoveInRangeSendsTheSetAddressCommand := by
  intro s row col hwf hrow hcol
  have hsent : sent s.params (.move row col) =
      some (false, BitVec.ofNat 8 (0x80 + s.params.rowBaseAt row.toNat + col.toNat), s.params.tExecCmd) :=
    if_pos ⟨hrow, hcol⟩
  rw [exec_of_sent hwf hsent, sendByte_eq]

/-- Settles O19. -/
theorem ibyteStartsAnInitByte : Obligations.IbyteStartsAnInitByte :=
  fun s v wait => congrArg Host.Outcome.next (sendByte_eq false v wait s)

/-- Settles O20: the nibble, extended to eight bits, keeps its value. -/
theorem inibStartsASingleNibble : Obligations.InibStartsASingleNibble := by
  intro s v wait
  rw [BitVec.ofNat_toNat]
  exact congrArg Host.Outcome.next (startTransfer_eq false (v.setWidth 8) false wait s)

/-! ### The exits of the phases of a transfer -/

/-- The last edge of a timed phase is its exit action, at the state in which the host's act is taken (R26). -/
theorem step_phaseEnd {s : State} {ph : Phase} (hruns : Runs s) (hph : s.phase = ph) (hcnt : s.cnt = 0)
    (htimed : ph ≠ .CFG ∧ ph ≠ .IDLE) : step s = exitPhase (taken s) := by
  rw [step_exit hruns.1 hruns.2 (hph ▸ htimed) hcnt, clearResp_advanceHost]

/-- Settles O28. -/
theorem addressSetupEndsWithERising : Obligations.AddressSetupEndsWithERising := by
  intro s hruns hph hcnt
  rw [step_phaseEnd hruns hph hcnt (by decide)]
  simp [exitPhase, hph, exitAs, enterPhase]

/-- The value of a pulse on an 8-bit bus (R101). -/
theorem pulseValue_wide (xb : Byte) (two nib : Bool) : pulseValue 8 xb two nib = xb := rfl

/-- The value of the first of two pulses on a 4-bit bus (R101). -/
theorem pulseValue_first (xb : Byte) : pulseValue 4 xb true false = highNibble xb := rfl

/-- The value of a single pulse, or of the second of two, on a 4-bit bus (R101). -/
theorem pulseValue_last (xb : Byte) {two nib : Bool} (h : two = false ∨ nib = true) :
    pulseValue 4 xb two nib = lowNibble xb := by
  obtain rfl | rfl := h
  · rfl
  · cases two <;> rfl

theorem highNibble_toNat (v : Byte) : (highNibble v).toNat = v.toNat / 16 := by
  have := v.isLt
  rw [highNibble_eq, BitVec.toNat_ofNat, Nat.mod_eq_of_lt (by omega)]

theorem lowNibble_toNat (v : Byte) : (lowNibble v).toNat = v.toNat % 16 := by
  rw [lowNibble_eq, BitVec.toNat_ofNat, Nat.mod_eq_of_lt (by omega)]

/-- Settles O29: the value is that of `pulse_value()`. -/
theorem dataIsPlacedAtTheEhExit : Obligations.DataIsPlacedAtTheEhExit := by
  intro s hruns hph hcnt
  refine ⟨pulseValue s.params.busWidth s.xb s.two s.nib, ?_, fun hbw => ?_, fun hbw htwo hnib => ?_, fun hbw hlast => ?_⟩
  · rw [step_phaseEnd hruns hph hcnt (by decide)]
    simp [exitPhase, hph, exitEh, enterPhase]
  · rw [hbw, pulseValue_wide]
  · rw [hbw, htwo, hnib, pulseValue_first, highNibble_toNat]
  · rw [hbw, pulseValue_last s.xb hlast, lowNibble_toNat]

/-- The DS exit (R104). -/
theorem step_dsEnd {s : State} (hruns : Runs s) (hph : s.phase = .DS) (hcnt : s.cnt = 0) :
    step s = .next (exitDs (taken s)) := by
  rw [step_phaseEnd hruns hph hcnt (by decide)]
  simp [exitPhase, hph]

/-- A latch event is the fall of E between driven cycles, with the levels before it (R107). -/
theorem latchEvent_eq_some_iff {s t : State} {l : Latch} :
    latchEvent s t = some l ↔
      (s.eQ = true ∧ t.eQ = false ∧ s.oeQ = true ∧ t.oeQ = true) ∧ l = ⟨s.rsQ, s.rwQ, s.dbQ⟩ := by
  simp [latchEvent, and_assoc, eq_comm (a := l)]

/-- A driven pulse ends in a latch event (R104, R107). -/
theorem latchEvent_exitDs {s : State} (he : s.eQ = true) (hoe : s.oeQ = true) :
    latchEvent s (exitDs (taken s)) = some ⟨s.rsQ, s.rwQ, s.dbQ⟩ :=
  latchEvent_eq_some_iff.mpr ⟨⟨he, rfl, hoe, hoe⟩, rfl⟩

/-- Settles O30. -/
theorem dataSetupEndsWithTheLatch : Obligations.DataSetupEndsWithTheLatch :=
  fun s hruns hph hcnt => ⟨exitDs (taken s), step_dsEnd hruns hph hcnt, rfl, latchEvent_exitDs⟩

/-- Settles O31, by the two branches of the HOLD exit. -/
theorem holdEndsWithTheSecondPulseOrTheWait : Obligations.HoldEndsWithTheSecondPulseOrTheWait := by
  intro s hruns hph hcnt
  have hstep : step s = .next (exitHold (taken s)) := by
    rw [step_phaseEnd hruns hph hcnt (by decide)]
    simp [exitPhase, hph]
  rw [hstep]
  refine ⟨fun htwo hnib => congrArg _ (if_pos ⟨htwo, hnib⟩), fun hlast => congrArg _ (if_neg ?_)⟩
  show ¬(s.two = true ∧ s.nib = false)
  obtain h | h := hlast <;> simp [h]

/-- Settles O32. -/
theorem requestEndsWithOk : Obligations.RequestEndsWithOk :=
  fun _ hruns hph hcnt hreq => step_requestEnd hruns hph hcnt hreq

/-! ### Latch events -/

/-- A reset edge releases the pins, so that it is no latch event (R107, R231). -/
theorem latchEvent_resetEdge (s u : State) : latchEvent s (resetEdge u) = none := by
  have hoe : (resetEdge u).oeQ = false := rfl
  rw [latchEvent, hoe, Bool.and_false, if_neg Bool.false_ne_true]

/-- Settles O8. -/
theorem resetEdgeIsNoLatchAndNoResponse : Obligations.ResetEdgeIsNoLatchAndNoResponse := by
  intro s t hr hstep
  rw [step_reset (step_cases hstep).1 hr] at hstep
  cases hstep
  exact ⟨latchEvent_resetEdge s _, rfl⟩

/-- HOLD exit raises E or keeps it (R105). -/
theorem exitHold_eQ {s : State} (h : s.eQ = true) : (exitHold s).eQ = true := by
  unfold exitHold
  split
  · rfl
  · exact h

/-- Only the DS exit lowers E. -/
theorem Edge.phase_of_eQ_falls {s t : State} (edge : Edge s t) (he : s.eQ = true) (he' : t.eQ = false) :
    s.phase = .DS ∧ s.cnt = 0 := by
  cases edge with
  | dsExit hph hcnt => exact ⟨hph, hcnt⟩
  | asExit => cases he'
  | holdExit => exact absurd he' (by simp [exitHold_eQ (s := taken s) he])
  | configure | hold | answer | send | count | entry | initEnd | ehExit | requestEnd =>
    exact absurd (he.symm.trans he') (by decide)

/-- A latch event is at a DS exit without reset (R104, R107). -/
theorem dsEnd_of_latchEvent {s t : State} {l : Latch} (hstep : step s = .next t) (hl : latchEvent s t = some l) :
    s.phase = .DS ∧ s.cnt = 0 ∧ (sampled s).rst = false := by
  have hr : (sampled s).rst = false := by
    cases hr : (sampled s).rst with
    | false => rfl
    | true => simp [resetEdgeIsNoLatchAndNoResponse s t hr hstep] at hl
  obtain ⟨⟨he, he', -⟩, -⟩ := latchEvent_eq_some_iff.mp hl
  obtain ⟨hph, hcnt⟩ := (step_edge hr hstep).phase_of_eQ_falls he he'
  exact ⟨hph, hcnt, hr⟩

/-- Settles O42: E falls at the DS exit alone, where the invariant has it high and the pins driven. -/
theorem latchesHappenExactlyAtDsExits : Obligations.LatchesHappenExactlyAtDsExits := by
  intro s t h hstep
  refine ⟨⟨fun hne => ?_, fun ⟨hph, hcnt, hr⟩ => ?_⟩, fun l hl => ?_⟩
  · obtain ⟨l, hl⟩ := Option.ne_none_iff_exists'.mp hne
    exact dsEnd_of_latchEvent hstep hl
  · have he : s.eQ = true := h.r37.eHigh.mpr (.inr hph)
    have hoe : s.oeQ = true := by simpa [hph] using h.r37.oeLow
    rw [step_dsEnd ⟨h.paramsWf, hr⟩ hph hcnt] at hstep
    cases hstep
    simp [latchEvent_exitDs he hoe]
  · rw [← h.r37.rwLow]
    exact (latchEvent_eq_some_iff.mp hl).2

end Sys2Proof.Machine
end

section
/-! PROOF. Requests at the edge of IDLE (41_command_data.md): NOP, the step of an offered request, the rejection of an
illegal word, and the edge without a request. -/

namespace Sys2Proof.Machine

open Sys2Proof.Statements

/-! ### What is answered at once -/

/-- `Respond` register by register (R122). -/
theorem respond_eq (st : Status) (s : State) :
    respond st s = { s with respValidQ := true, respStatusQ := st } := rfl

/-- NOP is an immediate OK (R123). -/
theorem exec_nop (s : State) : exec .nop s = .next (respond .ok s) := rfl

/-- Settles O13. -/
theorem nopAnswersOk : Obligations.NopAnswersOk :=
  fun s => (exec_nop s).trans (congrArg Host.Outcome.next (respond_eq .ok s))

/-! ### The dispatch of a word, by what it decodes to -/

/-- A legal word runs its instruction (R122). -/
theorem dispatch_of_instr {w : Word} {i : Instr} (h : decodeRequest w = .instr i) (s : State) :
    dispatch w s = exec i s := by
  rw [dispatch, h]

/-- An illegal word is answered at once (R126). -/
theorem dispatch_of_illegal {w : Word} {e : DecodeError} (h : decodeRequest w = .illegal e) (s : State) :
    dispatch w s = .next (respond .errIllegal s) := by
  rw [dispatch, h]
  rfl

/-! ### The edge of IDLE -/

/-- Settles O21: the acceptance edge dispatches the word, which decodes to the instruction. -/
theorem stepRunsTheOfferedRequest : Obligations.StepRunsTheOfferedRequest :=
  fun s _ hruns hph hv hd => (step_request hruns hph hv).trans (dispatch_of_instr hd (taken s))

/-- Settles O22: the acceptance edge dispatches the word, which is answered at once. -/
theorem stepRejectsAnIllegalWord : Obligations.StepRejectsAnIllegalWord := by
  intro s e hruns hph hv hd
  rw [step_request hruns hph hv, dispatch_of_illegal hd, respond_eq]

/-- Settles O23: without reset and without a request the edge of IDLE only takes the host's act. -/
theorem idleEdgeWithoutARequestHolds : Obligations.IdleEdgeWithoutARequestHolds := by
  intro s ⟨hwf, hr⟩ hph hv
  rw [← clearResp_advanceHost, step_eq_clockEdge hwf]
  simp [clockEdge, hr, runEdge, hph, idleEdge, hv]

end Sys2Proof.Machine
end

section
/-! SUPPORT. The engine from its reset on: what holds while nobody resets it, and the run from the reset to the turn
that ends the init sequence. -/

namespace Sys2Proof.Machine

open Sys2Proof.Statements

/-! ### Before initialization is done -/

/-- Until initialization is done the engine is not idle (R145). -/
theorem EngineInv.phase_ne_idle {s : State} (h : EngineInv s) (hdone : s.initDoneQ = false) : s.phase ≠ .IDLE := by
  intro hph
  obtain ⟨-, hdone'⟩ := h.r37.idleReady hph
  simp [hdone] at hdone'

/-- Until initialization is done no response is given: a response is given with the engine idle (R106, R145). -/
theorem EngineInv.respValidQ_of_not_done {s : State} (h : EngineInv s) (hdone : s.initDoneQ = false) :
    s.respValidQ = false :=
  Bool.eq_false_iff.mpr fun hresp => h.phase_ne_idle hdone (h.respIdle hresp)

/-! ### No further reset -/

/-- A cycle of an engine that nobody resets any more. Before the end of its init sequence it has answered no request, so
that the status is that of the reset (R36, R145). -/
structure Unreset (p : Params) (s : State) : Prop where
  inv    : EngineInv s
  quiet  : noReset s.host = true
  params : s.params = p
  status : s.initDoneQ = false → s.respStatusQ = .ok

namespace Unreset

variable {p : Params} {s t : State}

theorem afterReset {host : List HostAct} (hwf : p.wf = true) (hquiet : noReset host = true) :
    Unreset p (afterReset p host) :=
  ⟨engineInv_afterReset host hwf, hquiet, rfl, fun _ => rfl⟩

theorem rst (h : Unreset p s) : (sampled s).rst = false :=
  sampled_rst_of_noReset h.quiet

theorem runs (h : Unreset p s) : Runs s :=
  ⟨h.inv.paramsWf, h.rst⟩

/-- What is not done after an edge was not done before it (R30). -/
theorem initDoneQ_before_step (h : Unreset p s) (hstep : step s = .next t) (hdone : t.initDoneQ = false) :
    s.initDoneQ = false := by
  obtain ⟨hstays, -⟩ := initDoneRisesOnceAndStays s t h.rst hstep
  exact Bool.eq_false_iff.mpr fun hs => Bool.eq_false_iff.mp hdone (hstays hs)

theorem step (h : Unreset p s) (hstep : step s = .next t) : Unreset p t := by
  have hinv := everyStepKeepsTheEngineInvariant s t h.inv hstep
  refine ⟨hinv, step_host hstep ▸ noReset_advanceHost h.quiet, (step_params hstep).trans h.params, fun hdone => ?_⟩
  have hkept := statusIsKeptUntilTheNextResponse s t h.rst hstep (hinv.respValidQ_of_not_done hdone)
  exact hkept.trans (h.status (h.initDoneQ_before_step hstep hdone))

theorem of_runEdges {k : Nat} (h : Unreset p s) (hrun : runEdges k s = some t) : Unreset p t :=
  runEdges_keeps (fun _ _ => step) h hrun

/-- What is not done after a run was not done before it (R30). -/
theorem initDoneQ_before {k : Nat} (h : Unreset p s) (hrun : runEdges k s = some t) (hdone : t.initDoneQ = false) :
    s.initDoneQ = false := by
  have hkept := runEdges_keeps (P := fun v => Unreset p v ∧ (v.initDoneQ = false → s.initDoneQ = false))
    (fun _ _ ⟨hv, hback⟩ hstep => ⟨hv.step hstep, hback ∘ hv.initDoneQ_before_step hstep⟩) ⟨h, id⟩ hrun
  exact hkept.2 hdone

end Unreset

/-- An engine that exists runs for any number of edges. -/
theorem runEdges_next {s : State} (hwf : s.params.wf = true) (k : Nat) : ∃ u, runEdges k s = some u := by
  induction k generalizing s with
  | zero => exact ⟨s, rfl⟩
  | succ k ih =>
    obtain ⟨t, hstep⟩ := step_next hwf
    simpa [runEdges, hstep] using ih (step_params hstep ▸ hwf)

/-! ### Configuration and power-on -/

/-- CFG exit (R140). -/
theorem step_cfg {s : State} (hruns : Runs s) (hph : s.phase = .CFG) : step s = .next (exitCfg (taken s)) := by
  obtain ⟨hwf, hr⟩ := hruns
  rw [← clearResp_advanceHost, step_eq_clockEdge hwf]
  simp [clockEdge, hr, runEdge, exitPhase, hph]

/-- The power-on wait runs down to the turn of entry 0 (R141). -/
theorem Unreset.run_powerOn {p : Params} {s : State} (h : Unreset p s) (hph : s.phase = .PWR) (a : Nat) :
    ∃ u, Run a s.cnt s u [] [] ∧ EntryTurn u 0 := by
  induction hcnt : s.cnt generalizing s a with
  | zero => exact ⟨s, .nil, hcnt, .inl ⟨hph, rfl⟩⟩
  | succ k ih =>
    have hstep : Machine.step s = .next (countDown (taken s)) := by
      rw [← clearResp_advanceHost]
      exact step_count h.inv.paramsWf h.rst (by simp [hph]) (by omega)
    obtain ⟨u, hrun, hturn⟩ := ih (h.step hstep) hph (a + 1) (by simp [hcnt])
    have hall := (Run.silent (a := a) hstep rfl).trans hrun
    rw [latchAt_eq_nil (by simp), Nat.add_comm] at hall
    exact ⟨u, hall, hturn⟩

/-- From the cycle after a reset, `T_PWR` edges lead to the turn of entry 0: CFG's one and all but the last of PWR. -/
theorem run_to_firstTurn {p : Params} {host : List HostAct} (hwf : p.wf = true) (hquiet : noReset host = true)
    (a : Nat) : ∃ u, Run a p.tPwr (afterReset p host) u [] [] ∧ EntryTurn u 0 := by
  have h := Unreset.afterReset hwf hquiet
  have hstep := step_cfg h.runs rfl
  obtain ⟨u, hrun, hturn⟩ := (h.step hstep).run_powerOn rfl (a + 1)
  have hall := (Run.silent (a := a) hstep rfl).trans hrun
  have hlen : 1 + (p.tPwr - 1) = p.tPwr := by
    obtain ⟨hpwr, -⟩ := wf_waits hwf
    have := (waitOk_iff.mp hpwr).1
    omega
  rw [latchAt_eq_nil (by simp [afterReset, State.reset])] at hall
  exact ⟨u, hlen ▸ hall, hturn⟩

/-! ### The entries -/

theorem lowNibble_lowNibble (v : Byte) : lowNibble (lowNibble v) = lowNibble v := by
  revert v
  decide

/-- The first cycle of entry n: its transfer has the entry's length and latch events, where a is the edge that starts
it (R143, R144, R148). -/
structure StartsEntry (p : Params) (n : Nat) (e : InitEntry) (t : State) : Prop where
  inTransfer : t.phase.inTransfer = true
  inInit     : t.inInit = true
  initIdx    : t.initIdx = n
  cycles     : 1 + edgesToLast t = entryCycles p e
  latches    : ∀ a, latchesToCome t (a + 1 + t.cnt) = entryLatches p a e

theorem StartsEntry.of_startTransfer {s : State} {e : InitEntry} {b : Byte} {tw : Bool} (hwf : s.params.wf = true)
    (hin : s.inInit = true) (hcycles : transferCycles s.params (if tw then 2 else 1) e.wait = entryCycles s.params e)
    (hlatches : ∀ a,
      latchesToCome (startTransfer false b tw e.wait s) (a + s.params.tAs) = entryLatches s.params a e) :
    StartsEntry s.params s.initIdx e (startTransfer false b tw e.wait s) := by
  refine ⟨rfl, hin, rfl, ?_, fun a => ?_⟩
  · rw [Nat.add_comm, edgesToLast_startTransfer hwf, hcycles]
  · have hlast : a + 1 + (s.params.tAs - 1) = a + s.params.tAs := by
      obtain ⟨-, has, -⟩ := wf_waits hwf
      have := (waitOk_iff.mp has).1
      omega
    rw [startTransfer_cnt, hlast, hlatches]

/-- An entry's instruction starts the entry: IBYTE a byte, INIB a single pulse of its nibble (R143, R144). -/
theorem exec_startsEntry {s : State} {e : InitEntry} (hwf : s.params.wf = true) (he : e ∈ s.params.initSeq)
    (hin : s.inInit = true) : ∃ t, exec (decodeEntry e) s = .next t ∧ StartsEntry s.params s.initIdx e t := by
  have hok := wf_entryOk hwf he
  obtain ⟨kind, v, wait⟩ := e
  cases kind with
  | ibyte =>
    refine ⟨sendByte false v wait s, rfl, .of_startTransfer hwf hin ?_ (latchesToCome_sendByte hwf false v wait)⟩
    simp [entryCycles, bytePulses_eq]
  | inib =>
    obtain ⟨-, hbw⟩ := of_decide_eq_true hok
    have hpulse : pulseValue s.params.busWidth (lowNibble v) false false = BitVec.ofNat 8 (v.toNat % 16) := by
      rw [hbw, pulseValue_last _ (.inl rfl), lowNibble_lowNibble, lowNibble_eq]
    refine ⟨startTransfer false (lowNibble v) false wait s, rfl, .of_startTransfer hwf hin rfl fun a => ?_⟩
    simp [latchesToCome, secondLatch, secondToCome, entryLatches, hpulse]

theorem initNext_startsEntry {s : State} {n : Nat} {e : InitEntry} (hwf : s.params.wf = true)
    (he : s.params.initSeq[n]? = some e) : ∃ t, initNext n s = .next t ∧ StartsEntry s.params n e t := by
  rw [initNext_entry he]
  exact exec_startsEntry (s := { s with initIdx := n, inInit := true }) hwf (List.mem_of_getElem? he) rfl

/-- An entry runs from its own turn, at edge a, to the turn of the next one (R142, R148). -/
theorem Unreset.run_of_entry {p : Params} {s : State} {n : Nat} {e : InitEntry} (h : Unreset p s)
    (hturn : EntryTurn s n) (he : p.initSeq[n]? = some e) (a : Nat) :
    ∃ u, Run a (entryCycles p e) s u (entryLatches p a e) [] ∧ EntryTurn u (n + 1) := by
  obtain rfl := h.params
  obtain ⟨t, hinit, hstart⟩ := initNext_startsEntry (s := taken s) h.inv.paramsWf he
  have hstep : Machine.step s = .next t := (step_turn h.runs hturn).trans hinit
  have ht : Transferring t := ⟨(h.step hstep).inv, hstart.inTransfer, (h.step hstep).quiet⟩
  obtain ⟨u, hrun, -, hkept, huph, hucnt⟩ := ht.run_to_last (a + 1)
  have he0 : s.eQ = false := (h.inv.pins_between (.inr hturn.phase)).2
  have hall := (Run.silent (a := a) hstep ht.respValidQ).trans hrun
  rw [latchAt_eq_nil (by simp [he0]), hstart.cycles, hstart.latches] at hall
  exact ⟨u, hall, hucnt, .inr ⟨huph, hkept.inInit.trans hstart.inInit, by rw [hkept.initIdx, hstart.initIdx]⟩⟩

/-- The entries that are left run one after another, to the turn after the last (R142, R148). -/
theorem Unreset.run_of_entries {p : Params} {es : List InitEntry} : ∀ {s : State} {n : Nat}, Unreset p s →
    EntryTurn s n → p.initSeq.drop n = es → ∀ a,
    ∃ u, Run a (seqCycles p es) s u (seqLatches p a es) [] ∧ EntryTurn u (n + es.length) := by
  induction es with
  | nil => exact fun {s _} _ hturn _ a => ⟨s, .nil, hturn⟩
  | cons e es ih =>
    intro s n h hturn hes a
    have he : p.initSeq[n]? = some e := by rw [← List.head?_drop, hes]; rfl
    have hrest : p.initSeq.drop (n + 1) = es := by rw [← List.tail_drop, hes]; rfl
    obtain ⟨v, hfirst, hv⟩ := h.run_of_entry hturn he a
    obtain ⟨u, hall, hu⟩ := ih (h.of_runEdges hfirst.edges) hv hrest (a + entryCycles p e)
    refine ⟨u, hfirst.trans hall, ?_⟩
    rwa [List.length_cons, Nat.add_comm es.length, ← Nat.add_assoc]

/-- From the cycle after a reset to the turn that ends the sequence (R148). -/
theorem run_to_lastTurn {p : Params} {host : List HostAct} (hwf : p.wf = true) (hquiet : noReset host = true)
    (a : Nat) : ∃ u, Run a (p.tPwr + seqCycles p p.initSeq) (afterReset p host) u
      (seqLatches p (a + p.tPwr) p.initSeq) [] ∧ EntryTurn u p.initLen := by
  obtain ⟨v, hfirst, hv⟩ := run_to_firstTurn hwf hquiet a
  have hvu := (Unreset.afterReset hwf hquiet).of_runEdges hfirst.edges
  obtain ⟨u, hall, hu⟩ := hvu.run_of_entries hv List.drop_zero (a + p.tPwr)
  exact ⟨u, hfirst.trans hall, by rwa [Nat.zero_add] at hu⟩

end Sys2Proof.Machine
end

section
/-! PROOF. Initialization (42_init.md): configuration, the end of the sequence, its whole run from a reset, and the
default sequences' minima. -/

namespace Sys2Proof.Machine

open Sys2Proof.Statements

/-! ### The first and the last edge -/

/-- Settles O27: the next edge is the CFG exit, whatever `cnt` is. -/
theorem configurationLastsOneCycle : Obligations.ConfigurationLastsOneCycle :=
  fun _ hruns hph => step_cfg hruns hph

/-- Past the last entry `InitNext` ends the sequence (R142). -/
theorem initNext_end {n : Nat} {s : State} (h : s.params.initLen ≤ n) : initNext n s = .next (endInit s) := by
  simp [initNext, List.getElem?_eq_none h]

/-- Settles O25: in a turn past the last entry `InitNext` ends the sequence. -/
theorem stepEndsTheInitSequence : Obligations.StepEndsTheInitSequence :=
  fun _ _ hruns hcnt hph hn => (step_turn hruns ⟨hcnt, hph⟩).trans (initNext_end hn)

/-! ### The whole sequence -/

/-- Settles O48: the run to the last turn, and the edge that ends the sequence. Initialization is not done in that
turn, so it is done in no cycle before, and a cycle before it is done is not idle and shows no response. -/
theorem initSequenceRunsEveryEntryInOrder : Obligations.InitSequenceRunsEveryEntryInOrder := by
  intro p host r hwf hquiet
  have hstart := Unreset.afterReset hwf hquiet
  obtain ⟨u, hrun, hturn⟩ := run_to_lastTurn hwf hquiet (r + 1)
  have hu := hstart.of_runEdges hrun.edges
  have hdone := hu.inv.initDoneQ_of_turn hturn
  have he : u.eQ = false := (hu.inv.pins_between (.inr hturn.phase)).2
  have hend : step u = .next (endInit (taken u)) :=
    (step_turn hu.runs hturn).trans (initNext_end (congrArg Params.initLen hu.params).le)
  have hall := hrun.trans (.silent hend rfl)
  rw [latchAt_eq_nil (by simp [he]), List.append_nil] at hall
  rw [show 1 + p.tPwr + seqCycles p p.initSeq = p.tPwr + seqCycles p p.initSeq + 1 by omega]
  refine ⟨hall.latches, ⟨_, hall.edges, rfl, rfl, congrArg Params.initLen hu.params, rfl, hu.status hdone⟩,
    fun k hk => ?_⟩
  obtain ⟨v, hv⟩ := runEdges_next hstart.inv.paramsWf k
  obtain ⟨j, hj⟩ := Nat.exists_eq_add_of_le (Nat.le_of_lt_succ hk)
  have hvu : Unreset p v := hstart.of_runEdges hv
  have hvdone : v.initDoneQ = false :=
    hvu.initDoneQ_before ((runEdges_add hv j).symm.trans (hj ▸ hrun.edges)) hdone
  exact ⟨v, hv, hvu.inv.phase_ne_idle hvdone, hvdone, hvu.inv.respValidQ_of_not_done hvdone⟩

/-! ### The default sequences -/

theorem entriesMeet_nil (f : Nat) : EntriesMeet [] [] f := by
  simp [EntriesMeet]

/-- Entry by entry, a sequence meets its minima (R235). -/
theorem entriesMeet_cons {e : InitEntry} {es : List InitEntry} {t : Nat} {ts : List Nat} {f : Nat} :
    EntriesMeet (e :: es) (t :: ts) f ↔ cyclesFor t f ≤ e.wait ∧ EntriesMeet es ts f := by
  simp [EntriesMeet, and_left_comm]

/-- Settles O57: each entry of a default sequence has one of the named waits and its minimum. -/
theorem defaultInitSequenceMeetsItsMinima : Obligations.DefaultInitSequenceMeetsItsMinima := by
  intro p d m bw f hwaits
  obtain ⟨-, -, -, -, -, hcmd, -, hnib1, hnib2⟩ := hwaits
  by_cases hbw : bw = 4
  · simp [defaultInitSeq, initSeq4, Minima.defaultEntries, hbw, entriesMeet_cons, entriesMeet_nil, hcmd, hnib1, hnib2]
  · simp [defaultInitSeq, initSeq8, Minima.defaultEntries, hbw, entriesMeet_cons, entriesMeet_nil, hcmd]

end Sys2Proof.Machine
end

section
/-! PROOF. The cursor (43_cursor.md): the rejections of MOVE, the address decoder, and its map under this hardware's
row table. -/

namespace Sys2Proof.Machine

/-! ### The range checks of MOVE -/

/-- Settles O18, by the row and column checks in their order. -/
theorem moveOutOfRangeIsRejected : Obligations.MoveOutOfRangeIsRejected := by
  intro s row col
  rw [execMove_eq, ← respond_eq, ← respond_eq]
  exact ⟨fun hrow => if_pos hrow, fun hrow hcol => (if_neg hrow.not_ge).trans (if_pos hcol)⟩

/-- A MOVE in range sends the set-address command of its offset, on every parameter set (R162). -/
theorem exec_move_of_inRange {s : State} {row : BitVec 3} {col : BitVec 6} (hrow : row.toNat < s.params.numRows)
    (hcol : col.toNat ≤ s.params.colMax) :
    exec (.move row col) s =
      .next (sendByte false (setAddrCmd (ddramAddr s.params row col)) s.params.tExecCmd s) := by
  rw [execMove_eq, if_neg hrow.not_ge, if_neg hcol.not_gt]

/-! ### The address decoder -/

/-- The set-address bit ORed onto an offset, as numbers (R161). -/
theorem setAddrCmd_toNat_or (a : BitVec 7) : (setAddrCmd a).toNat = 0x80 ||| a.toNat := by
  rw [setAddrCmd, BitVec.toNat_or, BitVec.toNat_setWidth_of_le (by decide)]
  rfl

/-- An offset has seven bits, none of them the set-address bit, so OR and addition agree (R165). -/
theorem setAddrCmd_toNat_add (a : BitVec 7) : (setAddrCmd a).toNat = 0x80 + a.toNat :=
  (setAddrCmd_toNat_or a).trans (Nat.two_pow_add_eq_or_of_lt a.isLt 1).symm

/-- A sum of seven bits is the offset, with no bit cut off (R160). -/
theorem ddramAddr_toNat {p : Params} {row : BitVec 3} {col : BitVec 6} {base : Nat}
    (hbase : p.rowBaseAt row.toNat = base) (hfit : base + col.toNat ≤ 0x7F) :
    (ddramAddr p row col).toNat = base + col.toNat := by
  rw [ddramAddr, hbase, BitVec.toNat_ofNat]
  exact Nat.mod_eq_of_lt (Nat.lt_succ_of_le hfit)

/-- Settles O49: `chk_fit` bounds the sum, so it is the offset. -/
theorem acceptedPairsMapToBasePlusColumn : Obligations.AcceptedPairsMapToBasePlusColumn := by
  refine ⟨fun a => rfl, fun p row col hwf hrow hcol => ?_⟩
  have hfit : p.rowBaseAt row.toNat + col.toNat ≤ 0x7F := (Nat.add_le_add_left hcol _).trans (wf_fit hwf hrow)
  have haddr := ddramAddr_toNat rfl hfit
  exact ⟨hfit, haddr, by rw [setAddrCmd_toNat_or, haddr], by rw [setAddrCmd_toNat_add, haddr, Nat.add_comm]⟩

/-! ### This hardware's row table -/

/-- Where a row's base lies 16 above another's, sixteen columns less reach the same offset (R166). -/
theorem ddramAddr_alias {p : Params} {row row' : BitVec 3} {c : BitVec 6}
    (hbase : p.rowBaseAt row'.toNat = p.rowBaseAt row.toNat + 16) (hc : 16 ≤ c.toNat) :
    ddramAddr p row c = ddramAddr p row' (c - 16) := by
  have hsub : (c - 16).toNat = c.toNat - 16 := BitVec.toNat_sub_of_le hc
  rw [ddramAddr, ddramAddr, hbase, hsub, Nat.add_assoc, Nat.add_sub_cancel' hc]

/-- MOVE does the same for two accepted pairs of one offset (R166). -/
theorem exec_move_alias {s : State} {row row' : BitVec 3} {c c' : BitVec 6} (hrow : row.toNat < s.params.numRows)
    (hrow' : row'.toNat < s.params.numRows) (hc : c.toNat ≤ s.params.colMax) (hc' : c'.toNat ≤ s.params.colMax)
    (haddr : ddramAddr s.params row c = ddramAddr s.params row' c') :
    exec (.move row c) s = exec (.move row' c') s := by
  rw [exec_move_of_inRange hrow hc, exec_move_of_inRange hrow' hc', haddr]

/-- Settles O50: the offsets of the four rows, and two rows' bases 16 apart. -/
theorem hardwareRowTableMapAndAliases : Obligations.HardwareRowTableMapAndAliases := by
  intro p h0 h1 h2 h3 hrows hmax
  refine ⟨fun c hc => ?_, fun c s hlow hhigh hp => ?_⟩
  · have a0 : (ddramAddr p 0 c).toNat = 0x00 + c.toNat := ddramAddr_toNat h0 (by omega)
    have a1 : (ddramAddr p 1 c).toNat = 0x40 + c.toNat := ddramAddr_toNat h1 (by omega)
    have a2 : (ddramAddr p 2 c).toNat = 0x10 + c.toNat := ddramAddr_toNat h2 (by omega)
    have a3 : (ddramAddr p 3 c).toNat = 0x50 + c.toNat := ddramAddr_toNat h3 (by omega)
    refine ⟨a0, a1, a2, a3, ?_⟩
    simp only [setAddrCmd_toNat_add, a0, a1, a2, a3]
    omega
  · subst hp
    have hrow : ∀ row : BitVec 3, row.toNat < 4 → row.toNat < s.params.numRows := fun _ h => hrows ▸ h
    have hc : c.toNat ≤ s.params.colMax := hmax ▸ hhigh
    have hc' : (c - 16).toNat ≤ s.params.colMax := by
      rw [BitVec.toNat_sub_of_le hlow]
      exact (Nat.sub_le ..).trans hc
    have alias02 : ddramAddr s.params 0 c = ddramAddr s.params 2 (c - 16) :=
      ddramAddr_alias (h2.trans (congrArg (· + 16) h0).symm) hlow
    have alias13 : ddramAddr s.params 1 c = ddramAddr s.params 3 (c - 16) :=
      ddramAddr_alias (h3.trans (congrArg (· + 16) h1).symm) hlow
    exact ⟨alias02, alias13,
      exec_move_alias (hrow 0 (by decide)) (hrow 2 (by decide)) hc hc' alias02,
      exec_move_alias (hrow 1 (by decide)) (hrow 3 (by decide)) hc hc' alias13,
      _, _, exec_move_of_inRange (hrow 0 (by decide)) hc, rfl, exec_move_of_inRange (hrow 1 (by decide)) hc, rfl⟩

end Sys2Proof.Machine
end

section
/-! PROOF. The host text layer (44_text_host.md): the words of a text, the move before it, and the decimal text of a
value. -/

namespace Sys2Proof.Machine

open Sys2Proof.Statements

/-! ### The words of a text -/

theorem decodeRequest_dataWord (b : Byte) : decodeRequest (dataWord b) = .instr (.data b) :=
  decodeRequest_eq_instr_iff.mpr rfl

theorem decodeRequest_moveWord (row col : Nat) :
    decodeRequest (moveWord row col) = .instr (.move (BitVec.ofNat 3 row) (BitVec.ofNat 6 col)) :=
  decodeRequest_eq_instr_iff.mpr rfl

/-- A text without a terminator is sent whole (R181). -/
theorem stringWords_of_no_terminator {text : List Byte} (h : ∀ b ∈ text, b ≠ 0x00) :
    stringWords text = text.map dataWord :=
  congrArg (List.map dataWord) (List.takeWhile_eq_self_iff.mpr fun b hb => decide_eq_true (h b hb))

/-- The terminator and what follows it are not sent (R181). -/
theorem stringWords_append_terminator {text : List Byte} (h : ∀ b ∈ text, b ≠ 0x00) (rest : List Byte) :
    stringWords (text ++ 0x00 :: rest) = text.map dataWord := by
  rw [stringWords, beforeTerminator, List.takeWhile_append_of_pos fun b hb => decide_eq_true (h b hb),
    List.takeWhile_cons_of_neg (by decide), List.append_nil]

/-- Settles O51: with or without a terminator after them, the words are those of the bytes before it. -/
theorem stringSendsTheBytesBeforeTheTerminator : Obligations.StringSendsTheBytesBeforeTheTerminator := by
  intro p text rest h
  have hwords : stringWords text = text.map dataWord := stringWords_of_no_terminator h
  refine ⟨rfl, congrArg some ?_, ?_⟩
  · rw [stringWords_append_terminator h, hwords]
  · rw [hwords, List.map_map]
    exact List.map_congr_left fun b _ => decodeRequest_dataWord b

/-! ### The move before a text -/

/-- Settles O52: in range, `chk_rows` and `chk_col` keep the row and the column in their fields. -/
theorem stratMovesThenSendsItsText : Obligations.StratMovesThenSendsItsText := by
  intro p row col text hwf
  have hrows : p.numRows ≤ 4 := (wf_rows hwf).2
  have hcols : p.colMax ≤ 63 := wf_colMax hwf
  refine ⟨fun hrow hcol => ⟨moveWord row col, if_pos ⟨hrow, hcol⟩, decodeRequest_moveWord row col, ?_, ?_⟩,
    fun hout => if_neg (by omega)⟩
  · exact Nat.mod_eq_of_lt (by omega)
  · exact Nat.mod_eq_of_lt (by omega)

/-! ### Decimal digits -/

/-- The ASCII byte of a decimal digit (R183). -/
def digitByte (d : Nat) : Byte := BitVec.ofNat 8 (0x30 + d)

theorem digitByte_toNat {d : Nat} (h : d < 10) : (digitByte d).toNat = 0x30 + d :=
  Nat.mod_eq_of_lt (by omega)

/-- The decimal digits of a number in ASCII, the most significant one first; none for 0. -/
def numeral (m : Nat) : List Byte := ((Nat.digits 10 m).map digitByte).reverse

theorem numeral_zero : numeral 0 = [] := by
  simp [numeral]

/-- The last digit of a number is its remainder, and those before it are the digits of the quotient. -/
theorem numeral_of_pos {m : Nat} (h : 0 < m) : numeral m = numeral (m / 10) ++ [digitByte (m % 10)] := by
  rw [numeral, Nat.digits_def' (by decide) h, List.map_cons, List.reverse_cons, numeral]

/-- The loop of R183 writes the numeral, given fuel for its digits. -/
theorem decimalDigits_eq {fuel m : Nat} (h : m < 10 ^ fuel) (acc : List Byte) :
    decimalDigits fuel m acc = numeral m ++ acc := by
  induction fuel generalizing m acc with
  | zero =>
    obtain rfl : m = 0 := Nat.lt_one_iff.mp h
    rw [numeral_zero]
    rfl
  | succ fuel ih =>
    obtain rfl | hm := Nat.eq_zero_or_pos m
    · rw [numeral_zero]
      rfl
    · have hdiv : m / 10 < 10 ^ fuel := Nat.div_lt_of_lt_mul (Nat.pow_succ' ▸ h)
      rw [decimalDigits, if_neg hm.ne', ih hdiv, numeral_of_pos hm, List.append_assoc]
      rfl

theorem numeral_allDigits (m : Nat) : AllDigits (numeral m) := by
  intro b hb
  obtain ⟨d, hd, rfl⟩ := List.mem_map.mp (List.mem_reverse.mp hb)
  have hlt : d < 10 := Nat.digits_lt_base (by decide) hd
  rw [digitByte_toNat hlt]
  omega

theorem decimalValue_append_singleton (digits : List Byte) (b : Byte) :
    decimalValue (digits ++ [b]) = decimalValue digits * 10 + (b.toNat - 0x30) := by
  rw [decimalValue, List.foldl_append, ← decimalValue]
  rfl

/-- The digits of a number, least significant first, read back in reverse as the number they are digits of. -/
theorem decimalValue_digitBytes {ds : List Nat} (h : ∀ d ∈ ds, d < 10) :
    decimalValue (ds.map digitByte).reverse = Nat.ofDigits 10 ds := by
  induction ds with
  | nil => rfl
  | cons d ds ih =>
    obtain ⟨hd, hds⟩ := List.forall_mem_cons.mp h
    rw [List.map_cons, List.reverse_cons, decimalValue_append_singleton, ih hds, digitByte_toNat hd, Nat.ofDigits_cons]
    omega

/-- A numeral reads back as its number. -/
theorem decimalValue_numeral (m : Nat) : decimalValue (numeral m) = m :=
  (decimalValue_digitBytes fun _ => Nat.digits_lt_base (by decide)).trans (Nat.ofDigits_digits 10 m)

theorem numeral_ne_nil {m : Nat} (h : m ≠ 0) : numeral m ≠ [] := by
  rw [numeral_of_pos (Nat.pos_of_ne_zero h)]
  exact List.concat_ne_nil _ _

/-- A numeral has no leading zero. -/
theorem numeral_head_ne_zero (m : Nat) : (numeral m).head? ≠ some 0x30 := by
  rw [numeral, List.head?_reverse, List.getLast?_map]
  intro hhead
  obtain ⟨d, hd, hbyte⟩ := Option.map_eq_some_iff.mp hhead
  obtain ⟨hne, rfl⟩ := List.mem_getLast?_eq_getLast hd
  have hlt := Nat.digits_lt_base (by decide) (List.getLast_mem hne)
  have htop := Nat.getLast_digit_ne_zero 10 (Nat.digits_ne_nil_iff_ne_zero.mp hne)
  exact htop (Nat.add_left_cancel ((digitByte_toNat hlt).symm.trans (congrArg BitVec.toNat hbyte)))

/-! ### The text of a value -/

/-- The minus sign of a negative value (R183). -/
def signBytes (v : BitVec 32) : List Byte := if v.toInt < 0 then [0x2D] else []

theorem zero_notMem_signBytes (v : BitVec 32) : 0x00 ∉ signBytes v := by
  unfold signBytes
  split
  · decide
  · exact List.not_mem_nil

/-- The digits of a value's magnitude: of 0 the single digit 0, of any other its numeral (R183). -/
def magnitudeDigits (v : BitVec 32) : List Byte := if v.toInt = 0 then [0x30] else numeral v.toInt.natAbs

theorem magnitudeDigits_of_zero {v : BitVec 32} (h : v.toInt = 0) : magnitudeDigits v = [0x30] := if_pos h

theorem magnitudeDigits_of_ne {v : BitVec 32} (h : v.toInt ≠ 0) : magnitudeDigits v = numeral v.toInt.natAbs :=
  if_neg h

/-- The text of a value is its sign and its digits, of which a 32-bit value has at most ten (R183). -/
theorem intText_eq (v : BitVec 32) : intText v = signBytes v ++ magnitudeDigits v := by
  have hten : v.toInt.natAbs < 10 ^ 10 := by
    have := v.le_toInt
    have := v.toInt_lt
    omega
  rw [intText, decimalDigits_eq hten, List.append_nil, signBytes]
  by_cases hzero : v.toInt = 0
  · rw [if_pos hzero, magnitudeDigits_of_zero hzero, if_neg hzero.not_lt, List.nil_append]
  · rw [if_neg hzero, magnitudeDigits_of_ne hzero]
    split <;> rfl

theorem magnitudeDigits_ne_nil (v : BitVec 32) : magnitudeDigits v ≠ [] := by
  by_cases hzero : v.toInt = 0
  · rw [magnitudeDigits_of_zero hzero]
    exact List.cons_ne_nil _ _
  · rw [magnitudeDigits_of_ne hzero]
    exact numeral_ne_nil (Int.natAbs_ne_zero.mpr hzero)

theorem magnitudeDigits_allDigits (v : BitVec 32) : AllDigits (magnitudeDigits v) := by
  by_cases hzero : v.toInt = 0
  · rw [magnitudeDigits_of_zero hzero]
    exact List.forall_mem_singleton.mpr (by decide)
  · rw [magnitudeDigits_of_ne hzero]
    exact numeral_allDigits _

/-- The digits read back as the magnitude. -/
theorem decimalValue_magnitudeDigits (v : BitVec 32) : decimalValue (magnitudeDigits v) = v.toInt.natAbs := by
  by_cases hzero : v.toInt = 0
  · rw [magnitudeDigits_of_zero hzero, hzero]
    rfl
  · rw [magnitudeDigits_of_ne hzero, decimalValue_numeral]

/-- Only the value 0 has a leading zero. -/
theorem toInt_eq_zero_of_head {v : BitVec 32} (h : (magnitudeDigits v).head? = some 0x30) : v.toInt = 0 := by
  by_contra hzero
  rw [magnitudeDigits_of_ne hzero] at h
  exact numeral_head_ne_zero _ h

/-- The text of a value holds no terminator, so it is sent whole (R181, R183). -/
theorem intText_no_terminator (v : BitVec 32) : ∀ b ∈ intText v, b ≠ 0x00 := by
  rintro b hb rfl
  rw [intText_eq, List.mem_append] at hb
  obtain hsign | hdigit := hb
  · exact zero_notMem_signBytes v hsign
  · exact absurd (magnitudeDigits_allDigits v _ hdigit).1 (by decide)

/-- Settles O53: the digits are those of the magnitude. -/
theorem intTextReadsBackAsTheValue : Obligations.IntTextReadsBackAsTheValue := by
  intro p v
  refine ⟨congrArg some (stringWords_of_no_terminator (intText_no_terminator v)), magnitudeDigits v, intText_eq v,
    magnitudeDigits_ne_nil v, magnitudeDigits_allDigits v, decimalValue_magnitudeDigits v, fun hhead => ?_⟩
  have hzero := toInt_eq_zero_of_head hhead
  exact ⟨hzero, magnitudeDigits_of_zero hzero⟩

end Sys2Proof.Machine
end

section
/-! PROOF. Reset and hazards (70_reset_and_hazards.md): the boot phases are left for good, and the platform's timing
obligation. -/

namespace Sys2Proof.Machine

open Sys2Proof.Statements

/-! ### The boot phases -/

/-- HOLD exit goes on with the second pulse or with the execution wait (R105). -/
theorem exitHold_phase (s : State) : (exitHold s).phase = .EH ∨ (exitHold s).phase = .EXEC := by
  unfold exitHold
  split
  · exact .inl rfl
  · exact .inr rfl

/-- Settles O39: CFG's own edge is the only one that enters a boot phase, and an edge that holds or counts keeps its
phase. -/
theorem bootPhasesDoNotReturn : Obligations.BootPhasesDoNotReturn := by
  intro s t hr hstep hcfg hpwr
  cases step_edge hr hstep with
  | configure hph => exact absurd hph hcfg
  | hold | answer | count => exact ⟨hcfg, hpwr⟩
  | holdExit => obtain hph | hph := exitHold_phase (taken s) <;> simp [hph]
  | send | entry | initEnd | asExit | ehExit | dsExit | requestEnd => exact ⟨nofun, nofun⟩

/-! ### The platform's timing obligation -/

/-- A wait has the cycles of a minimum exactly when it lasts the minimum: the rounding up of R235 in whole numbers. -/
theorem cyclesFor_le_iff {t f n : Nat} : cyclesFor t f ≤ n ↔ t * f ≤ n * 1000000000 := by
  unfold cyclesFor
  omega

/-- The entries' obligation by index: one minimum for each entry, and each entry's wait lasts its own (R235). -/
theorem entriesMeet_iff {es : List InitEntry} {ts : List Nat} {f : Nat} :
    EntriesMeet es ts f ↔ ts.length = es.length ∧
      ∀ (i : Nat) (e : InitEntry) (t : Nat), es[i]? = some e → ts[i]? = some t → t * f ≤ e.wait * 1000000000 := by
  simp only [EntriesMeet, cyclesFor_le_iff]
  refine and_congr_right fun _ => ⟨fun h i e t he ht => ?_, fun h x hx => ?_⟩
  · exact h (e, t) (List.mem_of_getElem? (List.getElem?_zip_eq_some.mpr ⟨he, ht⟩))
  · obtain ⟨i, hi⟩ := List.mem_iff_getElem?.mp hx
    obtain ⟨he, ht⟩ := List.getElem?_zip_eq_some.mp hi
    exact h i x.1 x.2 he ht

/-- Settles O56: each named wait by `cyclesFor_le_iff`, the entries by index. -/
theorem timingObligationBoundsEveryWait : Obligations.TimingObligationBoundsEveryWait := by
  intro p d m f
  simp only [MeetsTiming, WaitsMeet, cyclesFor_le_iff, entriesMeet_iff]

end Sys2Proof.Machine
end
